-- ==== Sys2Proof/Word.lean ====
section
/-! DEFINITION. The bit vectors of the block (00_scope.md R7, R8): words, codes, command words, results. -/

namespace Sys2Proof

/-- A register of the register space, and every transport transfer: REG_W = 16 bits (R7, R52). -/
abbrev Word := BitVec 16

/-- A field code or a command operand: 3 bits (R13). For the field mode only bit 0 is significant. -/
abbrev Code := BitVec 3

/-- A command word: CMD_W = 8 bits (R7, R70). -/
abbrev CmdWord := BitVec 8

/-- The result register RES: RES_W = 17 bits, two's complement for a voltage (R7, R35). -/
abbrev ResWord := BitVec 17

/-- A transport error code and the register ERRINFO: BERR_W = 2 bits, 0 for no error (R7, R34, R41). -/
abbrev ErrWord := BitVec 2

end Sys2Proof
end

