-- ==== Sys2Proof/Syntax.lean ====
section
/-! DEFINITION. What can be said to the block: fields, registers, the four enumerations, the twelve commands, and a
source line of the assembler (R13, R50, R75, R84, R104 to R107). -/

namespace Sys2Proof

/-- The four logical fields of CFG (R13, R21). -/
inductive Field where
  | rate | mode | mux | range
  deriving DecidableEq, Repr

/-- The two locations of the register space (R50, R51). -/
inductive Reg where
  | data | config
  deriving DecidableEq, Repr

/-- DataRate, the enumeration of the field rate, in the document's listing order (R104). -/
inductive DataRate where
  | rateOneShot | sps128 | sps250 | sps490 | sps920 | sps1600 | sps2400 | sps3300
  deriving DecidableEq, Repr

/-- OperatingMode, the enumeration of the field mode (R105). -/
inductive OperatingMode where
  | continuous | oneShot
  deriving DecidableEq, Repr

/-- FullScaleRange, the enumeration of the field range; the codes 6 and 7 have no member (R106). -/
inductive FullScaleRange where
  | fs6144 | fs4096 | fs2048 | fs1024 | fs512 | fs256
  deriving DecidableEq, Repr

/-- InputMux, the enumeration of the field mux: four differential pairs, four single-ended channels (R107). -/
inductive InputMux where
  | diff0 | diff1 | diff2 | diff3 | se0 | se1 | se2 | se3
  deriving DecidableEq, Repr

/-- The twelve mnemonics of the opcode map (R75). -/
inductive Mnemonic where
  | init | setrate | setmode | setmux | setrange | getrate | getmode | getmux | getrange | readv | readvch | setch
  deriving DecidableEq, Repr

/-- The twelve commands, one constructor per row of the opcode table (R75). An operand is the raw 3-bit ARG (R73):
an operand outside its enumeration is a command all the same, and is refused at execution (R78). -/
inductive Instr where
  /-- INIT (R160) -/
  | init
  /-- SETRATE r (R131) -/
  | setrate (r : Code)
  /-- SETMODE m (R132) -/
  | setmode (m : Code)
  /-- SETMUX x (R133) -/
  | setmux (x : Code)
  /-- SETRANGE g (R134) -/
  | setrange (g : Code)
  /-- GETRATE (R135) -/
  | getrate
  /-- GETMODE (R136) -/
  | getmode
  /-- GETMUX (R137) -/
  | getmux
  /-- GETRANGE (R138) -/
  | getrange
  /-- READV (R150) -/
  | readv
  /-- READVCH k (R151) -/
  | readvch (k : Code)
  /-- SETCH k (R139) -/
  | setch (k : Code)
  deriving DecidableEq, Repr

/-- The mnemonic of a command (R75). -/
def Instr.mnemonic : Instr → Mnemonic
  | .init => .init
  | .setrate _ => .setrate
  | .setmode _ => .setmode
  | .setmux _ => .setmux
  | .setrange _ => .setrange
  | .getrate => .getrate
  | .getmode => .getmode
  | .getmux => .getmux
  | .getrange => .getrange
  | .readv => .readv
  | .readvch _ => .readvch
  | .setch _ => .setch

/-- A symbolic operand of the assembler: a member of one of the four enumerations (R84). -/
inductive Symbol where
  | rate (r : DataRate)
  | mode (m : OperatingMode)
  | mux (x : InputMux)
  | range (g : FullScaleRange)
  deriving DecidableEq, Repr

/-- An operand as written in a source line: a decimal number or a symbolic name (R84). -/
inductive Operand where
  | number (n : Nat)
  | symbol (s : Symbol)
  deriving DecidableEq, Repr

/-- One source line of the assembler: a mnemonic and at most one operand (R84). -/
structure SourceLine where
  mnemonic : Mnemonic
  operand : Option Operand
  deriving DecidableEq, Repr

end Sys2Proof
end

