-- ==== Sys2Proof/Config.lean ====
section
/-! DEFINITION. The parameters of the block that have no home in the machine's tables, the words the block and the
transport exchange, and the two values the spec leaves open (R5, R7, R41, R54, R57, R69, R82).

Where the other rows of R7 stand, each as a definition of its own: REG_W, CMD_W, RES_W, BERR_W as the types Word,
CmdWord, ResWord, ErrWord; N_REGS as the type Reg; the field table and K in Machine/Codec.lean; the code tables and the
values INIT writes in Machine/Operands.lean. -/

namespace Sys2Proof

/-- SAMPLE_BITS, the data bits of a raw sample (R7). -/
abbrev Config.sampleBits : Nat := 12

/-- PAD_BITS, the unused low bits of a raw sample (R7). -/
abbrev Config.padBits : Nat := 4

/-- FRAC_BITS, the fraction bits of the millivolt result (R7). -/
abbrev Config.fracBits : Nat := 3

/-- BusErr: the transport's error code, a non-zero 2-bit value, by cause (R13, R82). -/
inductive BusErr where
  /-- 1 NACK, "no acknowledgment" -/
  | nack
  /-- 2 IO_FAULT, "I/O fault" -/
  | ioFault
  /-- 3 BYTE_COUNT, "wrong byte count" -/
  | byteCount
  deriving DecidableEq, Repr

/-- What the transport answers to one transaction, with the 16 drawn bits of R5 (R54, R57, R68).

The draw of `ok` is the value of a read of DATA (R56), bit 15 and bits [4:0] of a read of CONFIG (R55), and what a write
leaves in those six bits (R26). The draw of `err` is what a failed write leaves in CFG (R58). -/
inductive BusAnswer where
  /-- The transaction completed. -/
  | ok (draw : Word)
  /-- The transaction failed with an error code. -/
  | err (e : BusErr) (draw : Word)
  /-- No answer (yet): the sequencer stays where it is. -/
  | silent
  deriving DecidableEq, Repr, Inhabited

/-- A request of the block to the transport (R41). The only location ever written is CONFIG (R59), so a write of DATA
cannot be expressed. -/
inductive BusRequest where
  | read (a : Reg)
  | writeConfig (w : Word)
  deriving DecidableEq, Repr

/-- RSEL, the 1-bit register select: 0 selects DATA, 1 selects CONFIG (R51). -/
def Reg.rsel : Reg → BitVec 1
  | .data => 0#1
  | .config => 1#1

/-- The register a request names (R41, R59). -/
def BusRequest.reg : BusRequest → Reg
  | .read a => a
  | .writeConfig _ => .config

/-- DEV_ADDR, the device address every request carries; no rule depends on it (R69). The value is the spec's; the spec
gives it no width, and the 8 bits are a DESIGN CHOICE, safe: nothing reads it. Log entry 15. -/
def Config.devAddr : BitVec 8 := 0x60#8

/-- The device address on a request: the same for every one (R41, R69), 8 bits wide by log entry 15. -/
def BusRequest.address (_ : BusRequest) : BitVec 8 := Config.devAddr

/-- CFG_POR, the value of CFG after power-on reset: an open 16-bit parameter (R7, R28). A claim holds for every value
of it. Log entry 1. -/
opaque Config.cfgPor : Word

/-- The transport's n-th answer where the state's own list of settled answers has run out: a free input of the
environment (R5, R12). A claim holds for every value of it. Log entry 4. -/
opaque Config.freeAnswer : Nat → BusAnswer

end Sys2Proof
end

