-- ==== Sys2Proof/Decode.lean ====
section
/-! DEFINITION. The decoder (R70 to R78), the opcode map as a table (R75), and the encoder. -/

namespace Sys2Proof

/-- Why a word is illegal, one reason for each clause of R77. -/
inductive DecodeError where
  /-- cmd[3] = 1 -/
  | zBit
  /-- CLS = SYS and SEL other than 0b01 -/
  | sysSel
  /-- CLS = SYS, SEL = 0b01 and ARG other than 0 -/
  | sysArg
  /-- CLS = GET and ARG other than 0 -/
  | getArg
  /-- CLS = CONV and SEL = 0b11 -/
  | convSel
  /-- CLS = CONV, SEL = 0b00 and ARG other than 0 -/
  | readvArg
  deriving DecidableEq, Repr

/-- What the decoder answers: a command, or the reason the word is illegal (R76). -/
inductive Decoded where
  | command (i : Instr)
  | illegal (why : DecodeError)
  deriving DecidableEq, Repr

/-- CLS, cmd[7:6] (R71). -/
def wordCls (w : CmdWord) : BitVec 2 := w.extractLsb 7 6

/-- SEL, cmd[5:4] (R72). -/
def wordSel (w : CmdWord) : BitVec 2 := w.extractLsb 5 4

/-- Z, cmd[3] (R74). -/
def wordZ (w : CmdWord) : BitVec 1 := w.extractLsb 3 3

/-- ARG, cmd[2:0] (R73). -/
def wordArg (w : CmdWord) : Code := w.extractLsb 2 0

/-- field(sel): the field of a 2-bit field select, for the classes SET and GET and for the codec ports (R72, R76). -/
def fieldOfSel (sel : BitVec 2) : Field :=
  if sel = 0b00#2 then .rate
  else if sel = 0b01#2 then .mode
  else if sel = 0b10#2 then .mux
  else .range

/-- SET(f, arg) (R76). -/
def setCommand (f : Field) (arg : Code) : Instr :=
  match f with
  | .rate => .setrate arg
  | .mode => .setmode arg
  | .mux => .setmux arg
  | .range => .setrange arg

/-- GET(f) (R76). -/
def getCommand (f : Field) : Instr :=
  match f with
  | .rate => .getrate
  | .mode => .getmode
  | .mux => .getmux
  | .range => .getrange

/-- The class SYS: INIT or illegal (R76). -/
def decodeSys (sel : BitVec 2) (arg : Code) : Decoded :=
  if sel = 0b01#2 then
    if arg = 0#3 then .command .init else .illegal .sysArg
  else .illegal .sysSel

/-- The class GET: no operand (R76). -/
def decodeGet (sel : BitVec 2) (arg : Code) : Decoded :=
  if arg = 0#3 then .command (getCommand (fieldOfSel sel)) else .illegal .getArg

/-- The class CONV: READV, READVCH, SETCH or illegal (R76). -/
def decodeConv (sel : BitVec 2) (arg : Code) : Decoded :=
  if sel = 0b00#2 then
    if arg = 0#3 then .command .readv else .illegal .readvArg
  else if sel = 0b01#2 then .command (.readvch arg)
  else if sel = 0b10#2 then .command (.setch arg)
  else .illegal .convSel

/-- The decoder: every 8-bit word is exactly one command with its ARG, or illegal (R76). -/
def decode (w : CmdWord) : Decoded :=
  if wordZ w = 1#1 then .illegal .zBit
  else if wordCls w = 0b00#2 then decodeSys (wordSel w) (wordArg w)
  else if wordCls w = 0b01#2 then .command (setCommand (fieldOfSel (wordSel w)) (wordArg w))
  else if wordCls w = 0b10#2 then decodeGet (wordSel w) (wordArg w)
  else decodeConv (wordSel w) (wordArg w)

/-- The instruction the decoder reads from a row's bits: the table's words are 8 bits, one byte (R70, R86), so bits past
the first byte belong to no instruction. -/
def decodeTableWord (nbits w : Nat) : Option Instr :=
  match decode (BitVec.ofNat 8 (w % 2 ^ nbits)) with
  | .command i => some i
  | .illegal _ => none

/-- One row of the opcode map: a word is the row's command when (cmd & care) = pattern (R75; "care" is its mask). -/
structure OpcodeRow where
  mnemonic : Mnemonic
  pattern : CmdWord
  care : CmdWord
  deriving DecidableEq, Repr

/-- The opcode map, in the table's order (R75). -/
def opcodeMap : List OpcodeRow :=
  [⟨.init, 0x10#8, 0xFF#8⟩, ⟨.setrate, 0x40#8, 0xF8#8⟩, ⟨.setmode, 0x50#8, 0xF8#8⟩, ⟨.setmux, 0x60#8, 0xF8#8⟩,
   ⟨.setrange, 0x70#8, 0xF8#8⟩, ⟨.getrate, 0x80#8, 0xFF#8⟩, ⟨.getmode, 0x90#8, 0xFF#8⟩, ⟨.getmux, 0xA0#8, 0xFF#8⟩,
   ⟨.getrange, 0xB0#8, 0xFF#8⟩, ⟨.readv, 0xC0#8, 0xFF#8⟩, ⟨.readvch, 0xD0#8, 0xF8#8⟩, ⟨.setch, 0xE0#8, 0xF8#8⟩]

/-- A word matches a row of the opcode map (R75). -/
def OpcodeRow.hits (r : OpcodeRow) (w : CmdWord) : Bool := (w &&& r.care) == r.pattern

/-- The first row a word matches (R75). -/
def opcodeRow (w : CmdWord) : Option OpcodeRow := opcodeMap.find? (fun r => r.hits w)

/-- The fields CLS, SEL, Z = 0 and ARG put together, CLS highest (R70). -/
def packWord (cls sel : BitVec 2) (arg : Code) : CmdWord := cls ++ sel ++ 0#1 ++ arg

/-- The encoder: the word of a command, from the columns CLS and SEL of the opcode map (R75). -/
def encode : Instr → CmdWord
  | .init => packWord 0b00#2 0b01#2 0#3
  | .setrate r => packWord 0b01#2 0b00#2 r
  | .setmode m => packWord 0b01#2 0b01#2 m
  | .setmux x => packWord 0b01#2 0b10#2 x
  | .setrange g => packWord 0b01#2 0b11#2 g
  | .getrate => packWord 0b10#2 0b00#2 0#3
  | .getmode => packWord 0b10#2 0b01#2 0#3
  | .getmux => packWord 0b10#2 0b10#2 0#3
  | .getrange => packWord 0b10#2 0b11#2 0#3
  | .readv => packWord 0b11#2 0b00#2 0#3
  | .readvch k => packWord 0b11#2 0b01#2 k
  | .setch k => packWord 0b11#2 0b10#2 k

end Sys2Proof
end

