-- ==== Sys2Proof/Machine/Codec.lean ====
section
/-! DEFINITION. The datapath: the field encoder and decoder of CFG, the sample converter, the byte order of a transfer,
and the combinational codec ports (R41, R53, R79, R80, R100 to R116). All pure. -/

namespace Sys2Proof.Machine

/-- lo(f), the offset of a field (R100). -/
def fieldLo : Field → Nat
  | .rate => 5
  | .mode => 8
  | .mux => 12
  | .range => 9

/-- w(f), the width of a field (R100). -/
def fieldWidth : Field → Nat
  | .rate => 3
  | .mode => 1
  | .mux => 3
  | .range => 3

/-- m(f) = ((2^w(f)) - 1) << lo(f), the mask of a field in place (R100). -/
def fieldMask (f : Field) : Word := BitVec.ofNat 16 (2 ^ fieldWidth f - 1) <<< fieldLo f

/-- insert(f, r, c) = (r & ~m(f)) | ((zext_16(c) << lo(f)) & m(f)) (R101). With extractField it obeys the
seven laws of R103, the four masks being pairwise disjoint. -/
def insertField (f : Field) (r : Word) (c : Code) : Word :=
  (r &&& ~~~ fieldMask f) ||| ((c.setWidth 16 <<< fieldLo f) &&& fieldMask f)

/-- extract(f, r) = zext_3((r & m(f)) >> lo(f)) (R102; its laws with insertField: R103). -/
def extractField (f : Field) (r : Word) : Code := ((r &&& fieldMask f) >>> fieldLo f).setWidth 3

/-- The ten bits of CFG that the four fields tile: CFG[14:5] (R21). -/
def describedMask : Word := 0x7FE0#16

/-- A word with CFG[14:5] from one value, and bit 15 and bits [4:0] from another (R26, R55). -/
def mergeFields (fields other : Word) : Word := (fields &&& describedMask) ||| (other &&& ~~~ describedMask)

/-- The value of CFG put together from four field codes and the six undescribed bits (R79). -/
def packConfig (u15 : BitVec 1) (mux range : Code) (mode : BitVec 1) (rate : Code) (u4 : BitVec 5) : Word :=
  u15 ++ mux ++ range ++ mode ++ rate ++ u4

/-- d[15:4], the SAMPLE_BITS above the PAD_BITS of a raw sample (R29, R80). -/
def sampleOf (d : Word) : BitVec Config.sampleBits := d.extractLsb' Config.padBits Config.sampleBits

/-- count(d) = sint(d[15:4]), the signed 12-bit sample (R80, R111). -/
def count (d : Word) : Int := (sampleOf d).toInt

/-- The scale table K, eighths of a millivolt per count: a table, not a formula; the codes 6 and 7 have no entry
(R112). -/
def scaleK (g : Code) : Option Int :=
  if g = 0#3 then some 24
  else if g = 1#3 then some 16
  else if g = 2#3 then some 8
  else if g = 3#3 then some 4
  else if g = 4#3 then some 2
  else if g = 5#3 then some 1
  else none

/-- bv_17(count(d) * k): the exact product, narrowed to RES_W bits (R113). -/
def scaled (d : Word) (k : Int) : ResWord := BitVec.ofInt 17 (count d * k)

/-- mvq3(d, g), raw sample and range to eighths of a millivolt; no value for the codes 6 and 7 (R113). -/
def mvq3 (d : Word) (g : Code) : Option ResWord := (scaleK g).map (scaled d)

/-- The shift-and-add form of the converter (R116); it states the same values as `mvq3` without a multiplier. -/
def mvq3Shift (d : Word) (g : Code) : Option ResWord :=
  let s : ResWord := (sampleOf d).signExtend 17
  if g = 0#3 then some ((s <<< 4) + (s <<< 3))
  else if g = 1#3 then some (s <<< 4)
  else if g = 2#3 then some (s <<< 3)
  else if g = 3#3 then some (s <<< 2)
  else if g = 4#3 then some (s <<< 1)
  else if g = 5#3 then some s
  else none

/-- be16_pack(v): a 16-bit value crosses the bus high byte first (R53). -/
def be16Pack (v : Word) : BitVec 8 × BitVec 8 := (v.extractLsb 15 8, v.extractLsb 7 0)

/-- be16_unpack(b0, b1) = {b0, b1} (R53). -/
def be16Unpack (b : BitVec 8 × BitVec 8) : Word := b.1 ++ b.2

/-- The combinational port insert: word, 2-bit field select, code in; word out (R41). -/
def insertPort (r : Word) (sel : BitVec 2) (c : Code) : Word := insertField (fieldOfSel sel) r c

/-- The combinational port extract: word and field select in; code out (R41). -/
def extractPort (r : Word) (sel : BitVec 2) : Code := extractField (fieldOfSel sel) r

/-- The combinational port convert: raw sample and range code in; MvQ3 out (R41). -/
def convertPort (d : Word) (g : Code) : Option ResWord := mvq3 d g

end Sys2Proof.Machine
end

