-- ==== Sys2Proof/Machine/State.lean ====
section
/-! DEFINITION. The state of the block (R20), what crosses its boundary (R40, R41), the reasons the model stops, and the
state after reset (R241). -/

namespace Sys2Proof.Machine

/-- SEQ, the position in the running command's list of transactions, counted from 1 as the spec's rules count them
(R36, R37). -/
inductive Seq where
  | idle
  | trans (n : Nat)
  deriving DecidableEq, Repr

/-- One response on the caller's port: rsp_valid pulses once with these values (R40). -/
structure Response where
  status : BitVec 3
  errinfo : ErrWord
  res : ResWord
  resValid : Bool
  deriving DecidableEq, Repr

/-- THE MODEL'S OWN FIELDS, no state of the block (R20 names none of them): what its environment puts on the ports and
what the block has put there (R40, R41). Log entries 4, 7 and 8. -/
@[ext]
structure Ports where
  /-- The level on port rst (R40, R240). -/
  rst : Bool
  /-- The words the caller has still to hand over; the first is on port cmd, and cmd_valid = 1 while there is one. -/
  commands : List CmdWord
  /-- The transport answers already settled by the environment, the next one first. -/
  answers : List BusAnswer
  /-- How many answers have been drawn; past the end of `answers` it numbers the free answers. -/
  draws : Nat
  /-- The transport requests the block has issued, newest first. -/
  requests : List BusRequest
  /-- The responses the block has given, newest first. -/
  responses : List Response
  deriving DecidableEq, Repr

/-- The complete state of the block: the twelve rows of R20, and the ports. -/
@[ext]
structure State where
  /-- CFG, the configuration register, location CONFIG (R21 to R28). -/
  cfg : Word
  /-- DATA, the raw sample the front end last put there, location DATA (R29, R30). -/
  data : Word
  /-- CACHED_RANGE, the range code last written successfully; `none` while unwritten (R31). -/
  cachedRange : Option Code
  /-- INITED (R32). -/
  inited : Bool
  /-- STATUS (R33). -/
  status : BitVec 3
  /-- ERRINFO (R34). -/
  errinfo : ErrWord
  /-- RES (R35). -/
  res : ResWord
  /-- RES_VALID (R35). -/
  resValid : Bool
  /-- BUSY (R36). -/
  busy : Bool
  /-- CMDR, the accepted command word (R36). -/
  cmdr : CmdWord
  /-- T, the value read by a read-modify-write (R36). -/
  t : Word
  /-- SEQ (R36, R37). -/
  seq : Seq
  /-- The environment's side and the record of the block's outputs (the model's own). -/
  ports : Ports
  deriving DecidableEq, Repr

/-- Why the MODEL stops. None of these is a fault of the spec: those are completions with a STATUS (R200). -/
inductive Fault where
  /-- The scaling step of READV or READVCH reads a CACHED_RANGE that nothing has written: "a model that reaches such a
  read must `fault`" (U15; R31). Raised there and nowhere before, in states no run from reset reaches (R39). Safe: the
  model stops. -/
  | unwrittenRange
  /-- The scaling step of READV or READVCH reads a CACHED_RANGE of 6 or 7, reserved codes for which no K is defined
  (R112, U7). Raised there and nowhere before, in states no run from reset reaches (R39). Safe: the model stops. -/
  | reservedRange
  /-- BUSY = 1, but CMDR and SEQ name no transaction of a command. Raised by a step of a busy sequencer, in states no
  run from reset reaches. Safe: the model stops. -/
  | straySequencer
  deriving DecidableEq, Repr

/-- Why the model refuses to run a command. -/
inductive Refusal where
  /-- An instruction the model has no meaning for; raised by exec's arm. Safe: the model stops. -/
  | notModelled (mnemonic : String)
  /-- A command handed to exec while BUSY = 1: it is not accepted (R246, U12). Raised by every command; a step never
  asks for it, the word waits at the port. Safe: the model stops. -/
  | busy
  deriving DecidableEq, Repr

/-- What a command or a step answers. -/
abbrev Out := Host.Outcome State Fault Refusal

/-- The ports at reset: nothing presented, nothing settled, nothing given yet. DESIGN CHOICE, log entries 4, 7 and 8. -/
def Ports.reset : Ports :=
  { rst := false, commands := [], answers := [], draws := 0, requests := [], responses := [] }

/-- The state after reset (R241). CFG is the open CFG_POR (log entry 1); CMDR and T are 0 (DESIGN CHOICE, log entry 2);
DATA is 0 (DESIGN CHOICE, log entry 3). -/
def State.reset : State :=
  { cfg := Config.cfgPor
    data := 0#16
    cachedRange := none
    inited := false
    status := 0#3
    errinfo := 0#2
    res := 0#17
    resValid := false
    busy := false
    cmdr := 0#8
    t := 0#16
    seq := .idle
    ports := Ports.reset }

end Sys2Proof.Machine
end

