-- ==== Sys2Proof/Machine/Flags.lean ====
section
/-! DEFINITION. The response registers: STATUS and ERRINFO codes, the formats of RES (R33 to R35, R81 to R83). -/

namespace Sys2Proof.Machine

/-- The outcome of a completed command, by name (R81, R200). -/
inductive Status where
  | ok | busErr | cfgErr | illegalCmd | notInit | rsvdCode
  deriving DecidableEq, Repr

/-- The STATUS code of an outcome; 6 and 7 are never produced (R81). -/
def statusCode : Status → BitVec 3
  | .ok => 0#3
  | .busErr => 1#3
  | .cfgErr => 2#3
  | .illegalCmd => 3#3
  | .notInit => 4#3
  | .rsvdCode => 5#3

/-- The ERRINFO code of a transport error (R82). -/
def busErrCode : BusErr → ErrWord
  | .nack => 1#2
  | .ioFault => 2#2
  | .byteCount => 3#2

/-- ERRINFO where STATUS is not BUS_ERR: 0, no transport error (R82). -/
abbrev noError : ErrWord := 0#2

/-- The RES of a getter: zext_17(code) (R35, R83). -/
def resOfCode (c : Code) : ResWord := c.setWidth 17

/-- sint(RES[16:3]), the integer millivolts rounded toward minus infinity (R83). -/
def resMillivolts (r : ResWord) : Int := (r.extractLsb 16 Config.fracBits).toInt

/-- uint(RES[2:0]), the fraction in eighths of a millivolt (R83). -/
def resEighths (r : ResWord) : Nat := (r.extractLsb (Config.fracBits - 1) 0).toNat

/-- The voltage in volts a RES stands for: n / 8000 exactly, 1000 millivolts of 2^FRAC_BITS parts each (R83,
R115). -/
def resVolts (r : ResWord) : ℚ := (r.toInt : ℚ) / (1000 * 2 ^ Config.fracBits)

end Sys2Proof.Machine
end

