-- ==== Sys2Proof/WellFormed.lean ====
section
/-! DEFINITION. Which source lines assemble (R84), and which commands carry an operand inside its enumeration (R75,
column "ARG domain").

Every term of Instr has a command word, so decoding, encoding and execution need no check of Instr: R78 calls a command
whose operand is outside its enumeration well formed, and it executes, to the fault CFG_ERR. `Instr.inDomain` marks the
commands that cannot end so. -/

namespace Sys2Proof

/-- The commands that take an operand (R73, R75). -/
def Mnemonic.takesOperand : Mnemonic → Bool
  | .setrate | .setmode | .setmux | .setrange | .readvch | .setch => true
  | .init | .getrate | .getmode | .getmux | .getrange | .readv => false

/-- The enumeration whose names a command's operand may use; READVCH and SETCH take a channel number only (R84). -/
def Mnemonic.names : Mnemonic → Option Field
  | .setrate => some .rate
  | .setmode => some .mode
  | .setmux => some .mux
  | .setrange => some .range
  | .init | .getrate | .getmode | .getmux | .getrange | .readv | .readvch | .setch => none

/-- The enumeration a symbol belongs to. -/
def Symbol.field : Symbol → Field
  | .rate _ => .rate
  | .mode _ => .mode
  | .mux _ => .mux
  | .range _ => .range

/-- Check 1 of a source line: an operand stands exactly where the command takes one (R84). -/
def SourceLine.operandPresent (l : SourceLine) : Bool :=
  l.operand.isSome == l.mnemonic.takesOperand

/-- Check 2 of a source line: a number above 7 does not assemble (R84). -/
def SourceLine.numberFits (l : SourceLine) : Bool :=
  match l.operand with
  | some (.number n) => n ≤ 7
  | _ => true

/-- Check 3 of a source line: a symbolic name belongs to the command's enumeration (R84). -/
def SourceLine.symbolBelongs (l : SourceLine) : Bool :=
  match l.operand with
  | some (.symbol s) => l.mnemonic.names == some s.field
  | _ => true

/-- A source line that assembles (R84). -/
def SourceLine.wellFormed (l : SourceLine) : Bool :=
  l.operandPresent && l.numberFits && l.symbolBelongs

/-- The operand of a command is inside its enumeration: the column "ARG domain" of the opcode map (R75, R78). -/
def Instr.inDomain : Instr → Bool
  | .setmode m => m.toNat ≤ 1
  | .setrange g => g.toNat ≤ 5
  | .readvch k => k.toNat ≤ 3
  | .setch k => k.toNat ≤ 3
  | .setrate _ | .setmux _ => true
  | .init | .getrate | .getmode | .getmux | .getrange | .readv => true

end Sys2Proof
end

