-- ==== Sys2Proof/Machine/Operands.lean ====
section
/-! DEFINITION. The operand forms: the code tables of the four enumerations, the validity tests of the prologue, the
channel mapping, and the values INIT writes (R7, R73, R104 to R110, R160). -/

namespace Sys2Proof.Machine

/-- RATE_CODE: the code of a data rate is its position in the document's list (R104). -/
def rateCode : DataRate → Code
  | .rateOneShot => 0#3
  | .sps128 => 1#3
  | .sps250 => 2#3
  | .sps490 => 3#3
  | .sps920 => 4#3
  | .sps1600 => 5#3
  | .sps2400 => 6#3
  | .sps3300 => 7#3

/-- MODE_CODE (R105). -/
def modeCode : OperatingMode → Code
  | .continuous => 0#3
  | .oneShot => 1#3

/-- RANGE_CODE (R106). -/
def rangeCode : FullScaleRange → Code
  | .fs6144 => 0#3
  | .fs4096 => 1#3
  | .fs2048 => 2#3
  | .fs1024 => 3#3
  | .fs512 => 4#3
  | .fs256 => 5#3

/-- MUX_CODE (R107). -/
def muxCode : InputMux → Code
  | .diff0 => 0#3
  | .diff1 => 1#3
  | .diff2 => 2#3
  | .diff3 => 3#3
  | .se0 => 4#3
  | .se1 => 5#3
  | .se2 => 6#3
  | .se3 => 7#3

/-- The code a symbolic operand stands for (R84). -/
def symbolCode : Symbol → Code
  | .rate r => rateCode r
  | .mode m => modeCode m
  | .mux x => muxCode x
  | .range g => rangeCode g

/-- valid(f, c): the operand is a member of the field's enumeration (R110). -/
def valid (f : Field) (c : Code) : Bool :=
  match f with
  | .rate => true
  | .mux => true
  | .mode => c.toNat ≤ 1
  | .range => c.toNat ≤ 5

/-- valid_channel(c) (R110). -/
def validChannel (c : Code) : Bool := c.toNat ≤ 3

/-- se_encode(k): the mux code 4 + k of a single-ended channel, {1, k[1:0]}; called for k in 0 to 3 only (R108). -/
def seEncode (k : Code) : Code := 1#1 ++ k.extractLsb 1 0

/-- se_decode(x): the channel of a single-ended mux code, none for a differential pair (R109). -/
def seDecode (x : Code) : Option (BitVec 2) :=
  if x.extractLsb 2 2 = 1#1 then some (x.extractLsb 1 0) else none

/-- INIT_RATE: fastest, 3300 samples/sec (R7, R160). -/
def initRate : Code := 7#3

/-- INIT_MODE: continuous (R7, R160). -/
def initMode : Code := 0#3

/-- INIT_MUX: single-ended channel 0 (R7, R160). -/
def initMux : Code := 4#3

/-- INIT_RANGE: widest, FS6144 (R7, R160). -/
def initRange : Code := 0#3

end Sys2Proof.Machine
end

