-- ==== Sys2Proof/Machine/Ops.lean ====
section
/-! DEFINITION. The named operations over the state: accepting a command, completing it, fault entry, the transport
transactions, and the sequencer that runs a command's list of actions (R10, R11, R36, R37, R54 to R58, R130, R208).

A fault of the spec is a next state: `State.fail` is the one fault entry. There is no return from a fault: the next
command overwrites the response registers (R210). -/

namespace Sys2Proof.Machine

/-- cmd_ready = NOT BUSY (R40). -/
def State.cmdReady (s : State) : Bool := !s.busy

/-- cmd_valid: the caller presents a word (R40). -/
def State.cmdValid (s : State) : Bool := !s.ports.commands.isEmpty

/-- A completion: the response registers are written, BUSY <- 0, SEQ <- idle, and one response is signalled (R11, R33 to
R35, R40). -/
def State.respond (s : State) (status : BitVec 3) (errinfo : ErrWord) (res : ResWord) (resValid : Bool) : State :=
  { s with
    status := status
    errinfo := errinfo
    res := res
    resValid := resValid
    busy := false
    seq := .idle
    ports := { s.ports with responses := ⟨status, errinfo, res, resValid⟩ :: s.ports.responses } }

/-- complete OK (R11). -/
def State.completeOk (s : State) : State := s.respond (statusCode .ok) noError 0#17 false

/-- complete OK(v) (R11). -/
def State.completeWith (s : State) (v : ResWord) : State := s.respond (statusCode .ok) noError v true

/-- Fault entry: STATUS <- code of the cause, ERRINFO <- e, RES <- 0, RES_VALID <- 0, the block idle (R11, R208). -/
def State.fail (s : State) (cause : Status) (e : ErrWord) : State := s.respond (statusCode cause) e 0#17 false

/-- A fault that is not the transport's: ERRINFO is 0 (R202 to R205, R208). -/
def State.reject (s : State) (cause : Status) : State := s.fail cause noError

/-- BUS_ERR(e): the transport's code goes to ERRINFO unchanged (R201). -/
def State.failBus (s : State) (e : BusErr) : State := s.fail .busErr (busErrCode e)

/-- Acceptance of a command: BUSY <- 1, CMDR <- the word (R36, R130). -/
def State.accept (s : State) (w : CmdWord) : State := { s with busy := true, cmdr := w }

/-- The command is accepted only when BUSY = 0; then its own text runs (R36, R246). -/
def State.command (s : State) (i : Instr) (body : State → Out) : Out :=
  if s.busy then .refused .busy else body (s.accept (encode i))

/-- The transport's answer number k, counted from the next one: settled already, or free (R5). -/
def State.answerAt (s : State) (k : Nat) : BusAnswer :=
  match s.ports.answers[k]? with
  | some a => a
  | none => Config.freeAnswer (s.ports.draws + k)

/-- The next answer has been taken. -/
def State.drawn (s : State) : State :=
  { s with ports := { s.ports with answers := s.ports.answers.tail, draws := s.ports.draws + 1 } }

/-- Transaction n of the running command is put to the transport (R37, R41). -/
def State.request (s : State) (n : Nat) (r : BusRequest) : State :=
  { s with seq := .trans n, ports := { s.ports with requests := r :: s.ports.requests } }

/-- What a successful read of CONFIG returns: CFG[14:5], and six drawn bits (R55). -/
def State.configRead (s : State) (draw : Word) : Word := mergeFields s.cfg draw

/-- A successful write of CONFIG: CFG[14:5] = w[14:5]; bit 15 and bits [4:0] are not observable and are left free (R26,
R57; log entry 5). -/
def State.configWritten (s : State) (w draw : Word) : State := { s with cfg := mergeFields w draw }

/-- A failed write of CONFIG: CFG[14:5] is a draw, and so are the six bits nothing describes (R58, R26). -/
def State.configTorn (s : State) (draw : Word) : State := { s with cfg := draw }

/-- The front end, outside the block, has put a sample in DATA (R30, R56; log entry 6). -/
def State.sampled (s : State) (draw : Word) : State := { s with data := draw }

/-- T <- the value a read of CONFIG returned (R36, R130). -/
def State.withT (s : State) (v : Word) : State := { s with t := v }

/-- CACHED_RANGE <- g (R31). -/
def State.withCachedRange (s : State) (g : Code) : State := { s with cachedRange := some g }

/-- INITED <- b (R32). -/
def State.withInited (s : State) (b : Bool) : State := { s with inited := b }

/-- One line of a command's text, as its rule lists them. -/
inductive Action where
  /-- T <- BusRead(CONFIG) else fail BUS_ERR(e) (R130, transaction 1) -/
  | readT
  /-- BusWrite(CONFIG, insert(f, T, c)) else fail BUS_ERR(e) (R130, transaction 2) -/
  | write (f : Field) (c : Code)
  /-- CACHED_RANGE <- g (R134) -/
  | cacheRange (g : Code)
  /-- INITED <- 1 (R160) -/
  | markInited
  /-- r <- BusRead(CONFIG) else fail BUS_ERR(e); complete OK(zext_17(extract(f, r))), or RSVD_CODE (R135 to R138) -/
  | get (f : Field)
  /-- d <- BusRead(DATA) else fail BUS_ERR(e); complete OK(mvq3(d, CACHED_RANGE)) (R150) -/
  | sample
  deriving DecidableEq, Repr

/-- RMW(f, c): read CONFIG, write CONFIG with one field replaced, always both (R130). -/
def rmw (f : Field) (c : Code) : List Action := [.readT, .write f c]

/-- The request an action puts to the transport; none for an action inside the block. -/
def requestOf (a : Action) (s : State) : Option BusRequest :=
  match a with
  | .readT => some (.read .config)
  | .write f c => some (.writeConfig (insertField f s.t c))
  | .get _ => some (.read .config)
  | .sample => some (.read .data)
  | .cacheRange _ => none
  | .markInited => none

/-- An action that is a transport transaction. -/
def isTransaction (a : Action) : Bool :=
  match a with
  | .readT | .write _ _ | .get _ | .sample => true
  | .cacheRange _ | .markInited => false

/-- The end of a getter: the code read, or RSVD_CODE where no member of the enumeration has it; of the four fields only
range has such codes (R135 to R138). -/
def State.getterEnd (s : State) (f : Field) (c : Code) : State :=
  if valid f c then s.completeWith (resOfCode c) else s.reject .rsvdCode

/-- The scaling step of a voltage read: n = mvq3(d, CACHED_RANGE), d the sample in DATA; complete OK(n) (R150). The
model stops here where CACHED_RANGE is unwritten or reserved (U15, R112; log entry 10). -/
def State.sampleEnd (s : State) : Out :=
  match s.cachedRange with
  | none => .fault .unwrittenRange
  | some g =>
    match mvq3 s.data g with
    | none => .fault .reservedRange
    | some n => .next (s.completeWith n)

/-- Where a run of a command's text comes to. -/
inductive Run where
  /-- The command has completed or faulted, or it waits for an answer (R200, R220). -/
  | ended (s : State)
  /-- A voltage read has its sample, in DATA; its scaling step is left (R150). -/
  | sampled (s : State)
  deriving DecidableEq, Repr

/-- The state a run has come to. -/
def Run.state : Run → State
  | .ended s | .sampled s => s

/-- What a command answers whose run has come to this: a sample is scaled first. -/
def Run.out : Run → Out
  | .ended s => .next s
  | .sampled s => s.sampleEnd

/-- The pending transaction meets its answer. No answer: nothing changes. An error: what the failed transaction leaves,
then BUS_ERR. Success: its effect (R54, R57, R68, R201). -/
def State.await (s : State) (onErr : Word → State → State) (onOk : Word → State → Run) : Run :=
  match s.answerAt 0 with
  | .silent => .ended s.drawn
  | .err e v => .ended ((onErr v s.drawn).failBus e)
  | .ok v => onOk v s.drawn

/-- An action whose request, if it has one, is already with the transport: it meets the answer, and the rest of the
command's text goes on from there. -/
def perform (a : Action) (s : State) (rest : State → Run) : Run :=
  match a with
  | .readT => s.await (fun _ s1 => s1) (fun v s1 => rest (s1.withT (s1.configRead v)))
  | .write f c => s.await (fun v s1 => s1.configTorn v) (fun v s1 => rest (s1.configWritten (insertField f s1.t c) v))
  | .get f => s.await (fun _ s1 => s1) (fun v s1 => .ended (s1.getterEnd f (extractField f (s1.configRead v))))
  | .sample => s.await (fun _ s1 => s1) (fun v s1 => .sampled (s1.sampled v))
  | .cacheRange g => rest (s.withCachedRange g)
  | .markInited => rest (s.withInited true)

/-- The sequencer comes to an action as transaction n: a transaction is put to the transport (R37). -/
def State.reach (s : State) (a : Action) (n : Nat) : State :=
  match requestOf a s with
  | some r => s.request n r
  | none => s

/-- SEQ advances by one after each transaction (R37). -/
def nextSeq (a : Action) (n : Nat) : Nat := if isTransaction a then n + 1 else n

/-- The sequencer runs a command's text from transaction n to its completion, to a fault, to a transaction that is not
answered, or to the scaling of a sample (R37, R63, R200). -/
def runFrom : List Action → Nat → State → Run
  | [], _, s => .ended s.completeOk
  | a :: rest, n, s => perform a (s.reach a n) (fun s1 => runFrom rest (nextSeq a n) s1)

/-- The text of a command from its n-th transaction on, counted from 1; nothing for n = 0. -/
def fromTransaction : Nat → List Action → List Action
  | _, [] => []
  | n, a :: rest =>
    if isTransaction a then
      if n = 1 then a :: rest else fromTransaction (n - 1) rest
    else fromTransaction n rest

end Sys2Proof.Machine
end

