-- ==== Sys2Proof/Machine/Conversion.lean ====
section
/-! DEFINITION. The voltage reads (42_conversion_commands.md R150, R151). -/

namespace Sys2Proof.Machine

/-- READV: d <- BusRead(DATA), then the scaling step (R150). -/
def textReadv : List Action := [.sample]

/-- READV; NOT_INIT while INITED = 0, before any transaction (R150, R204). -/
def execReadv (s : State) : Out :=
  s.command .readv fun s1 => if s1.inited then (runFrom textReadv 1 s1).out else .next (s1.reject .notInit)

/-- READVCH k: RMW(mux, se_encode(k)), then as READV (R151). -/
def textReadvch (k : Code) : List Action := rmw .mux (seEncode k) ++ [.sample]

/-- READVCH k; first CFG_ERR for a channel above 3, then NOT_INIT while INITED = 0, both before any transaction (R151,
R207). -/
def execReadvch (k : Code) (s : State) : Out :=
  s.command (.readvch k) fun s1 =>
    if validChannel k then
      if s1.inited then (runFrom (textReadvch k) 1 s1).out else .next (s1.reject .notInit)
    else .next (s1.reject .cfgErr)

end Sys2Proof.Machine
end

