-- ==== Sys2Proof/Machine/Getters.lean ====
section
/-! DEFINITION. The getters (41_config_commands.md R135 to R138): one read of CONFIG, no write, and
CACHED_RANGE untouched. -/

namespace Sys2Proof.Machine

/-- GETRATE (R135). -/
def textGetrate : List Action := [.get .rate]

/-- GETRATE (R135). -/
def execGetrate (s : State) : Out := s.command .getrate fun s1 => .next (runFrom textGetrate 1 s1).state

/-- GETMODE (R136). -/
def textGetmode : List Action := [.get .mode]

/-- GETMODE (R136). -/
def execGetmode (s : State) : Out := s.command .getmode fun s1 => .next (runFrom textGetmode 1 s1).state

/-- GETMUX (R137). -/
def textGetmux : List Action := [.get .mux]

/-- GETMUX (R137). -/
def execGetmux (s : State) : Out := s.command .getmux fun s1 => .next (runFrom textGetmux 1 s1).state

/-- GETRANGE; RSVD_CODE when the field holds 6 or 7 (R138, R205). -/
def textGetrange : List Action := [.get .range]

/-- GETRANGE (R138). -/
def execGetrange (s : State) : Out := s.command .getrange fun s1 => .next (runFrom textGetrange 1 s1).state

end Sys2Proof.Machine
end

