-- ==== Sys2Proof/Machine/Init.lean ====
section
/-! DEFINITION. The initialisation command (43_init_command.md R160). -/

namespace Sys2Proof.Machine

/-- INIT after its first action: four sub-steps, eight transactions, then CACHED_RANGE <- 0 and INITED <- 1 (R160). -/
def textInit : List Action :=
  rmw .rate initRate ++ rmw .mode initMode ++ rmw .mux initMux ++ rmw .range initRange ++
    [.cacheRange initRange, .markInited]

/-- INIT; INITED <- 0 is its first action, before any transaction (R160). -/
def execInit (s : State) : Out :=
  s.command .init fun s1 => .next (runFrom textInit 1 (s1.withInited false)).state

end Sys2Proof.Machine
end

