-- ==== Sys2Proof/Machine/Setters.lean ====
section
/-! DEFINITION. The setters and SETCH (41_config_commands.md R130 to R134, R139): the text of each command, and its
meaning. -/

namespace Sys2Proof.Machine

/-- SETRATE r: RMW(rate, r) (R131). -/
def textSetrate (r : Code) : List Action := rmw .rate r

/-- SETRATE r; every operand is valid (R131). -/
def execSetrate (r : Code) (s : State) : Out :=
  s.command (.setrate r) fun s1 => .next (runFrom (textSetrate r) 1 s1).state

/-- SETMODE m: RMW(mode, m) (R132). -/
def textSetmode (m : Code) : List Action := rmw .mode m

/-- SETMODE m; CFG_ERR for an operand above 1, before any transaction (R132, R202). -/
def execSetmode (m : Code) (s : State) : Out :=
  s.command (.setmode m) fun s1 =>
    if valid .mode m then .next (runFrom (textSetmode m) 1 s1).state else .next (s1.reject .cfgErr)

/-- SETMUX x: RMW(mux, x) (R133). -/
def textSetmux (x : Code) : List Action := rmw .mux x

/-- SETMUX x; every operand is valid (R133). -/
def execSetmux (x : Code) (s : State) : Out :=
  s.command (.setmux x) fun s1 => .next (runFrom (textSetmux x) 1 s1).state

/-- SETRANGE g: RMW(range, g), then CACHED_RANGE <- g, only after the write returned ok (R134). -/
def textSetrange (g : Code) : List Action := rmw .range g ++ [.cacheRange g]

/-- SETRANGE g; CFG_ERR for an operand above 5, before any transaction (R134, R202). -/
def execSetrange (g : Code) (s : State) : Out :=
  s.command (.setrange g) fun s1 =>
    if valid .range g then .next (runFrom (textSetrange g) 1 s1).state else .next (s1.reject .cfgErr)

/-- SETCH k: RMW(mux, se_encode(k)) (R139). -/
def textSetch (k : Code) : List Action := rmw .mux (seEncode k)

/-- SETCH k; CFG_ERR for a channel above 3, before any transaction (R139, R202). -/
def execSetch (k : Code) (s : State) : Out :=
  s.command (.setch k) fun s1 =>
    if validChannel k then .next (runFrom (textSetch k) 1 s1).state else .next (s1.reject .cfgErr)

end Sys2Proof.Machine
end

