-- ==== Sys2Proof/Machine/Dispatch.lean ====
section
/-! DEFINITION. One arm per command: its meaning. -/

namespace Sys2Proof.Machine

def exec (i : Instr) (s : State) : Host.Outcome State Fault Refusal :=
  match i with
  | .init => Sys2Proof.Machine.execInit s
  | .setrate r => Sys2Proof.Machine.execSetrate r s
  | .setmode m => Sys2Proof.Machine.execSetmode m s
  | .setmux x => Sys2Proof.Machine.execSetmux x s
  | .setrange g => Sys2Proof.Machine.execSetrange g s
  | .getrate => Sys2Proof.Machine.execGetrate s
  | .getmode => Sys2Proof.Machine.execGetmode s
  | .getmux => Sys2Proof.Machine.execGetmux s
  | .getrange => Sys2Proof.Machine.execGetrange s
  | .readv => Sys2Proof.Machine.execReadv s
  | .readvch k => Sys2Proof.Machine.execReadvch k s
  | .setch k => Sys2Proof.Machine.execSetch k s

end Sys2Proof.Machine
end

