-- ==== Sys2Proof/Machine/Sequencer.lean ====
section
/-! DEFINITION. What a step does around a command: the power-on reset (R240), the handshake on the command port (R40,
R246), the illegal word (R203), and a busy sequencer whose pending transaction is, or is not, answered (R36, R68). -/

namespace Sys2Proof.Machine

/-- Port rst: the whole block, register pair included, takes its reset values; a command in progress is abandoned
without a response (R240, R241). The environment's side of the ports stays, and the pulse on rst is over. -/
def State.powerOn (s : State) : State := { State.reset with ports := { s.ports with rst := false } }

/-- The handshake: the word on port cmd, and the state after the caller has handed it over (R40). -/
def State.nextCommand (s : State) : Option (CmdWord × State) :=
  match s.ports.commands with
  | [] => none
  | w :: rest => some (w, { s with ports := { s.ports with commands := rest } })

/-- ILLEGAL_CMD: the word completes at once; no transaction, and no state but the response registers changes; the word
itself is not recorded (R77, R203). -/
def State.illegalCommand (s : State) : State := s.reject .illegalCmd

/-- The text of a command, its checks passed (R130). -/
def textOf : Instr → List Action
  | .init => textInit
  | .setrate r => textSetrate r
  | .setmode m => textSetmode m
  | .setmux x => textSetmux x
  | .setrange g => textSetrange g
  | .getrate => textGetrate
  | .getmode => textGetmode
  | .getmux => textGetmux
  | .getrange => textGetrange
  | .readv => textReadv
  | .readvch k => textReadvch k
  | .setch k => textSetch k

/-- What is left of the running command's text, its pending transaction first; none where CMDR and SEQ name no
transaction (R36). -/
def State.pending (s : State) : Option (Nat × Action × List Action) :=
  match s.seq, decode s.cmdr with
  | .trans n, .command i =>
    match fromTransaction n (textOf i) with
    | [] => none
    | a :: rest => some (n, a, rest)
  | _, _ => none

/-- A busy sequencer: the pending transaction, already with the transport, meets the next answer; without one nothing
changes, and no later command is accepted (R68, R220). Log entries 11 and 12. -/
def resume (s : State) : Out :=
  match s.pending with
  | some (n, a, rest) => (perform a s (fun s1 => runFrom rest (nextSeq a n) s1)).out
  | none => .fault .straySequencer

end Sys2Proof.Machine
end

