-- ==== Sys2Proof/Machine/Step.lean ====
section
/-! DEFINITION. One step of the machine, and where its next command is placed. -/

namespace Sys2Proof.Machine

/-- One step: rst first (R240); then a command in progress (R36); then the word on the command port (R246), which is a
command or illegal (R76, R77); without a word the idle block waits, and nothing changes (R241). -/
def step (s : State) : Host.Outcome State Fault Refusal :=
  if s.ports.rst then .next s.powerOn
  else if s.busy then resume s
  else
    match s.nextCommand with
    | none => .next s
    | some (w, s1) =>
      match decode w with
      | .command i => exec i s1
      | .illegal _ => .next s1.illegalCommand

/-- The word w placed at the head of the caller's words, rst low and the block idle, so that the next step accepts it
(R40, R246). Log entry 7: the caller presents commands from outside; nothing is fetched (R66). -/
def State.withFetchWord (s : State) (nbits w : Nat) : State :=
  { s with
    busy := false
    seq := .idle
    ports := { s.ports with rst := false, commands := BitVec.ofNat 8 (w % 2 ^ nbits) :: s.ports.commands } }

end Sys2Proof.Machine
end

