-- ==== Sys2Proof/Machine/Assembler.lean ====
section
/-! DEFINITION. The assembler (R84): a source line to a command, and a line of characters to a source line. -/

namespace Sys2Proof.Machine

/-- The operand as a number: a decimal number as it stands, a symbol by its code; 0 where there is none (R84). -/
def operandNumber : Option Operand → Nat
  | none => 0
  | some (.number n) => n
  | some (.symbol s) => (symbolCode s).toNat

/-- The command of a mnemonic with operand c; a command without operand takes none (R73, R75). -/
def commandOf (m : Mnemonic) (c : Code) : Instr :=
  match m with
  | .init => .init
  | .setrate => .setrate c
  | .setmode => .setmode c
  | .setmux => .setmux c
  | .setrange => .setrange c
  | .getrate => .getrate
  | .getmode => .getmode
  | .getmux => .getmux
  | .getrange => .getrange
  | .readv => .readv
  | .readvch => .readvch c
  | .setch => .setch c

/-- A source line assembles exactly when it is well formed; a number outside the ARG domain but not above 7 assembles
(R84). -/
def assemble (l : SourceLine) : Option Instr :=
  if l.wellFormed then some (commandOf l.mnemonic (BitVec.ofNat 3 (operandNumber l.operand))) else none

/-- The mnemonics of R75, in capitals. -/
def mnemonicNames : List (String × Mnemonic) :=
  [("INIT", .init), ("SETRATE", .setrate), ("SETMODE", .setmode), ("SETMUX", .setmux), ("SETRANGE", .setrange),
   ("GETRATE", .getrate), ("GETMODE", .getmode), ("GETMUX", .getmux), ("GETRANGE", .getrange), ("READV", .readv),
   ("READVCH", .readvch), ("SETCH", .setch)]

/-- The symbolic names of R84. -/
def symbolNames : List (String × Symbol) :=
  [("RATE_ONE_SHOT", .rate .rateOneShot), ("SPS128", .rate .sps128), ("SPS250", .rate .sps250),
   ("SPS490", .rate .sps490), ("SPS920", .rate .sps920), ("SPS1600", .rate .sps1600), ("SPS2400", .rate .sps2400),
   ("SPS3300", .rate .sps3300), ("CONTINUOUS", .mode .continuous), ("ONE_SHOT", .mode .oneShot),
   ("DIFF0", .mux .diff0), ("DIFF1", .mux .diff1), ("DIFF2", .mux .diff2), ("DIFF3", .mux .diff3),
   ("SE0", .mux .se0), ("SE1", .mux .se1), ("SE2", .mux .se2), ("SE3", .mux .se3),
   ("FS6144", .range .fs6144), ("FS4096", .range .fs4096), ("FS2048", .range .fs2048), ("FS1024", .range .fs1024),
   ("FS512", .range .fs512), ("FS256", .range .fs256)]

/-- A comment runs from ';' to the end of the line (R84). -/
def withoutComment (line : List Char) : List Char := line.takeWhile (fun c => c != ';')

/-- A character more at the front of a line's words: a space ends a word. -/
def addChar (c : Char) (ws : List (List Char)) : List (List Char) :=
  if c = ' ' then [] :: ws
  else
    match ws with
    | [] => [[c]]
    | w :: rest => (c :: w) :: rest

/-- The words of a line, separated by spaces (R84; log entry 13). -/
def wordsOf (line : List Char) : List (List Char) :=
  (line.foldr addChar [[]]).filter (fun w => !w.isEmpty)

/-- The value of a decimal number, leading zeros allowed (log entry 16); none for any other word (R84). -/
def decimal (w : List Char) : Option Nat :=
  if w.all Char.isDigit && !w.isEmpty then some (w.foldl (fun n c => 10 * n + (c.toNat - 48)) 0) else none

/-- The entry of a name table whose name is the word. -/
def lookupName {α : Type} (table : List (String × α)) (w : List Char) : Option α :=
  (table.find? (fun e => e.1.toList == w)).map Prod.snd

/-- An operand: a decimal number or a symbolic name (R84). -/
def parseOperand (w : List Char) : Option Operand :=
  match decimal w with
  | some n => some (.number n)
  | none => (lookupName symbolNames w).map .symbol

/-- One command per line: a mnemonic, then at most one operand (R84). -/
def parseLine (line : List Char) : Option SourceLine :=
  match wordsOf (withoutComment line) with
  | [m] => (lookupName mnemonicNames m).map (fun x => ⟨x, none⟩)
  | [m, o] =>
    match lookupName mnemonicNames m, parseOperand o with
    | some x, some y => some ⟨x, some y⟩
    | _, _ => none
  | _ => none

/-- The word a line of characters assembles to (R84). -/
def assembleLine (line : List Char) : Option CmdWord := ((parseLine line).bind assemble).map encode

end Sys2Proof.Machine
end

