-- ==== Sys2Proof/Safety.lean ====
section
/-! DEFINITION. What counts as a state a run can be in, in the terms the claims use: the invariant, reachability under
every behaviour of the environment, coherence of the shadow, completion of a command (R39, R40, R200, R247, R254). -/

namespace Sys2Proof.Machine

/-- A command that scales a voltage: READV, READVCH (R38). -/
def readsVoltage : Instr → Bool
  | .readv | .readvch _ => true
  | .init | .setrate _ | .setmode _ | .setmux _ | .setrange _ | .getrate | .getmode | .getmux | .getrange | .setch _ =>
    false

/-- What the checks before a command's first transaction have established, as long as it runs (R130, R150, R151,
R160). -/
def State.Admitted (s : State) (i : Instr) : Prop :=
  i.inDomain = true ∧ (readsVoltage i = true → s.inited = true) ∧ (i = .init → s.inited = false)

/-- CFG[14:5], all that software can count on in CFG (R26, R27), is the same. -/
def State.SameFields (s t : State) : Prop := t.cfg.extractLsb 14 5 = s.cfg.extractLsb 14 5

/-- CMDR holds an admitted command and SEQ one of its transactions, whose request is the newest one (R36, R63); while
the write of a read-modify-write is pending, T holds the fields CFG still has, since nothing else writes CFG (R65). -/
def State.Running (s : State) : Prop :=
  ∃ i n a rest r earlier, decode s.cmdr = .command i ∧ s.seq = .trans n ∧ s.Admitted i ∧
    s.pending = some (n, a, rest) ∧ requestOf a s = some r ∧ s.ports.requests = r :: earlier ∧
    ∀ f c, a = .write f c → s.t.extractLsb 14 5 = s.cfg.extractLsb 14 5

/-- The invariant of the block. -/
structure State.Inv (s : State) : Prop where
  /-- CACHED_RANGE, once written, holds a code 0 to 5 (R31, R39). -/
  range_legal : ∀ g, s.cachedRange = some g → g.toNat ≤ 5
  /-- INITED = 1 implies that CACHED_RANGE is written (R39). -/
  inited_range : s.inited = true → s.cachedRange ≠ none
  /-- STATUS 6 and 7 are never produced (R81). -/
  status_legal : s.status.toNat ≤ 5
  /-- RES is 0 while RES_VALID is 0 (R35). -/
  no_result : s.resValid = false → s.res = 0#17
  /-- A result goes with STATUS 0 (R35). -/
  result_ok : s.resValid = true → s.status = 0#3
  /-- ERRINFO is non-zero exactly with STATUS BUS_ERR (R34, R82). -/
  errinfo_bus : s.errinfo ≠ 0#2 ↔ s.status = 1#3
  /-- SEQ is idle exactly while BUSY is 0 (R36, R37). -/
  idle_iff : s.busy = false ↔ s.seq = .idle
  /-- A busy sequencer is at a transaction of an admitted command (R36). -/
  running : s.busy = true → s.Running

/-- The environment moves: another level on rst, other words to come, other settled answers. -/
def State.withEnvironment (s : State) (rst : Bool) (commands : List CmdWord) (answers : List BusAnswer) : State :=
  { s with ports := { s.ports with rst := rst, commands := commands, answers := answers } }

/-- The states a run from reset can be in, whatever the environment does between two steps. -/
inductive Reachable : State → Prop where
  | reset : Reachable State.reset
  | step (s t : State) : Reachable s → Machine.step s = .next t → Reachable t
  | environment (s : State) (rst : Bool) (commands : List CmdWord) (answers : List BusAnswer) :
      Reachable s → Reachable (s.withEnvironment rst commands answers)

/-- The shadow agrees with the device: CACHED_RANGE = CFG.range (R247). -/
def State.Coherent (s : State) : Prop := s.cachedRange = some (s.cfg.extractLsb 11 9)

/-- A run is finished: the caller has no further command, and BUSY = 0 (R254). -/
def State.Finished (s : State) : Prop := s.ports.commands = [] ∧ s.busy = false

/-- From s, the command that led to t has completed with these response registers, and with one response (R33 to R35,
R40). -/
def State.Completed (s t : State) (status : BitVec 3) (errinfo : ErrWord) (res : ResWord) (resValid : Bool) : Prop :=
  t.status = status ∧ t.errinfo = errinfo ∧ t.res = res ∧ t.resValid = resValid ∧ t.busy = false ∧ t.seq = .idle ∧
    t.ports.responses = ⟨status, errinfo, res, resValid⟩ :: s.ports.responses

/-- From s to t the block has put exactly these requests to the transport, newest first, and has taken one answer for
each; the caller's side of the ports is as it was. -/
def State.Issued (s t : State) (requests : List BusRequest) : Prop :=
  t.ports.requests = requests ++ s.ports.requests ∧ t.ports.draws = s.ports.draws + requests.length ∧
    t.ports.answers = s.ports.answers.drop requests.length ∧ t.ports.rst = s.ports.rst ∧
    t.ports.commands = s.ports.commands

/-- From s, the command that led to t waits for the answer to its n-th transaction: no response, and the response
registers as they were (R68, R220). -/
def State.Waits (s t : State) (n : Nat) : Prop :=
  t.busy = true ∧ t.seq = .trans n ∧ t.status = s.status ∧ t.errinfo = s.errinfo ∧ t.res = s.res ∧
    t.resValid = s.resValid ∧ t.ports.responses = s.ports.responses

/-- From s to t the state that only INIT, SETRANGE and the front end write is as it was (R31, R32, R38). -/
def State.Kept (s t : State) : Prop := t.data = s.data ∧ t.cachedRange = s.cachedRange ∧ t.inited = s.inited

/-- From s to t the device's registers and the host-side state are as they were; of the hidden state only T (R38). -/
def State.Unchanged (s t : State) : Prop := t.cfg = s.cfg ∧ t.t = s.t ∧ s.Kept t

/-- Two answers that differ at most in drawn bits no field of CFG holds (R26). -/
def BusAnswer.Alike (a b : BusAnswer) : Prop :=
  match a with
  | .ok _ => ∃ w, b = .ok w
  | .err e v => ∃ w, b = .err e w ∧ w.extractLsb 14 5 = v.extractLsb 14 5
  | .silent => b = .silent

/-- Two requests that differ at most in the bits of a written word no field of CFG holds (R26). -/
def BusRequest.Alike (q r : BusRequest) : Prop :=
  match q with
  | .read a => r = .read a
  | .writeConfig w => ∃ v, r = .writeConfig v ∧ v.extractLsb 14 5 = w.extractLsb 14 5

/-- Two states that differ at most in bit 15 and bits [4:0] of CFG and T, and in what follows from those bits in the
requests made and the answers to come (R26). -/
structure State.Alike (s u : State) : Prop where
  cfg : s.SameFields u
  t : u.t.extractLsb 14 5 = s.t.extractLsb 14 5
  rest : { u with cfg := s.cfg, t := s.t, ports := s.ports } = s
  rst : u.ports.rst = s.ports.rst
  commands : u.ports.commands = s.ports.commands
  responses : u.ports.responses = s.ports.responses
  requests : List.Forall₂ BusRequest.Alike s.ports.requests u.ports.requests
  answers : ∀ k, BusAnswer.Alike (s.answerAt k) (u.answerAt k)

end Sys2Proof.Machine
end

