-- ==== Sys2Proof/Certificates/Slice0/Obligations.lean ====
section
/-! DEFINITION. The statements about the block. A draw (a Word in an answer) is universally quantified everywhere: no
statement rests on the value of a free input. A word's slice is written with extractLsb, independently of the model's
own insertField and extractField. -/

namespace Sys2Proof.Claims

open Sys2Proof.Machine

/-- Every outcome of a command that is one read-modify-write, from the idle state s: the read fails; no answer to the
read; the write fails; no answer to the write; both succeed. `newWord` is the word written as a function of the word T
read, `range` what CACHED_RANGE becomes when both succeed. -/
def RmwOutcomes (i : Instr) (newWord : Word → Word) (range : State → Option Code) (s : State) : Prop :=
  (∀ e v, s.answerAt 0 = .err e v → ∃ t, exec i s = .next t ∧ s.Completed t 1#3 (busErrCode e) 0#17 false ∧
    s.Issued t [.read .config] ∧ s.Unchanged t ∧ t.cmdr = encode i) ∧
  (s.answerAt 0 = .silent → ∃ t, exec i s = .next t ∧ s.Waits t 1 ∧ s.Issued t [.read .config] ∧ s.Unchanged t ∧
    t.cmdr = encode i) ∧
  (∀ a e v, s.answerAt 0 = .ok a → s.answerAt 1 = .err e v → ∃ t, exec i s = .next t ∧
    s.Completed t 1#3 (busErrCode e) 0#17 false ∧ s.Issued t [.writeConfig (newWord t.t), .read .config] ∧
    t.t = (s.cfg &&& 0x7FE0#16) ||| (a &&& 0x801F#16) ∧ t.cfg.extractLsb 14 5 = v.extractLsb 14 5 ∧ s.Kept t ∧
    t.cmdr = encode i) ∧
  (∀ a, s.answerAt 0 = .ok a → s.answerAt 1 = .silent → ∃ t, exec i s = .next t ∧ s.Waits t 2 ∧
    s.Issued t [.writeConfig (newWord t.t), .read .config] ∧ t.t = (s.cfg &&& 0x7FE0#16) ||| (a &&& 0x801F#16) ∧
    t.cfg = s.cfg ∧ s.Kept t ∧ t.cmdr = encode i) ∧
  (∀ a b, s.answerAt 0 = .ok a → s.answerAt 1 = .ok b → ∃ t, exec i s = .next t ∧ s.Completed t 0#3 0#2 0#17 false ∧
    s.Issued t [.writeConfig (newWord t.t), .read .config] ∧ t.t = (s.cfg &&& 0x7FE0#16) ||| (a &&& 0x801F#16) ∧
    t.cfg.extractLsb 14 5 = (newWord t.t).extractLsb 14 5 ∧ t.data = s.data ∧ t.cachedRange = range s ∧
    t.inited = s.inited ∧ t.cmdr = encode i)

/-- A command that is refused by its operand: CFG_ERR, no transaction, nothing but the response registers changes. -/
def RefusesOperand (i : Instr) (s : State) : Prop :=
  ∃ t, exec i s = .next t ∧ s.Completed t 2#3 0#2 0#17 false ∧ s.Issued t [] ∧ s.Unchanged t

/-- A voltage read before a successful INIT: NOT_INIT, no transaction, nothing but the response registers changes. -/
def RefusesUninitialised (i : Instr) (s : State) : Prop :=
  ∃ t, exec i s = .next t ∧ s.Completed t 4#3 0#2 0#17 false ∧ s.Issued t [] ∧ s.Unchanged t

/-- Every outcome of a command that is one read of CONFIG, from the idle state s: the read fails; no answer; success,
with the completion `done` of the ten bits CFG[14:5]. -/
def GetterOutcomes (i : Instr) (done : State → State → Prop) (s : State) : Prop :=
  (∀ e v, s.answerAt 0 = .err e v → ∃ t, exec i s = .next t ∧ s.Completed t 1#3 (busErrCode e) 0#17 false ∧
    s.Issued t [.read .config] ∧ s.Unchanged t) ∧
  (s.answerAt 0 = .silent → ∃ t, exec i s = .next t ∧ s.Waits t 1 ∧ s.Issued t [.read .config] ∧ s.Unchanged t ∧
    t.cmdr = encode i) ∧
  (∀ a, s.answerAt 0 = .ok a → ∃ t, exec i s = .next t ∧ done s t ∧ s.Issued t [.read .config] ∧ s.Unchanged t ∧
    t.cmdr = encode i)

/-- The multiplier of a range code 0 to 5 in eighths of a millivolt: 2^(5 - g) for g in 1 to 5, and 3 * 2^3 for 0
(R112). -/
def eighthsPerCount (g : Code) : Int := if g = 0#3 then 24 else 2 ^ (5 - g.toNat)

/-- Getters run one after the other, each to its completion, from s to t. -/
def RunsGetters : List Field → State → State → Prop
  | [], s, t => s = t
  | f :: rest, s, t => ∃ u, exec (getCommand f) s = .next u ∧ u.busy = false ∧ RunsGetters rest u t

/-- What a successful read of CONFIG returns: the fields from what CONFIG holds, the six other bits from the draw
(R55). -/
def readBack (held draw : Word) : Word := (held &&& 0x7FE0#16) ||| (draw &&& 0x801F#16)

/-- The word of INIT's m-th write, counted from 0, for the word its read returned: rate 7, mode 0, mux 4, range 0
(R131 to R134, R160). -/
def initWrite : Nat → Word → Word
  | 0, r => (r &&& 0xFF1F#16) ||| 0x00E0#16
  | 1, r => r &&& 0xFEFF#16
  | 2, r => (r &&& 0x8FFF#16) ||| 0x4000#16
  | _, r => r &&& 0xF1FF#16

/-- What INIT's m-th read returns, counted from 0, from CFG = c, where its transactions succeed with the draws v: each
read sees the write before it (R55, R160). -/
def initRead (c : Word) (v : Nat → Word) : Nat → Word
  | 0 => readBack c (v 0)
  | m + 1 => readBack (initWrite m (initRead c v m)) (v (2 * (m + 1)))

/-- The transactions of INIT, oldest first, from CFG = c, where they succeed with the draws v (R160). -/
def initRequests (c : Word) (v : Nat → Word) : List BusRequest :=
  [.read .config, .writeConfig (initWrite 0 (initRead c v 0)), .read .config,
    .writeConfig (initWrite 1 (initRead c v 1)), .read .config, .writeConfig (initWrite 2 (initRead c v 2)),
    .read .config, .writeConfig (initWrite 3 (initRead c v 3))]

/-- From s to t, n transactions of INIT having succeeded, the fields of the sub-steps completed hold the defaults and
the others are as they were (R160, R209). -/
def InitFields (n : Nat) (s t : State) : Prop :=
  (if 2 ≤ n then t.cfg.extractLsb 7 5 = 7#3 else t.cfg.extractLsb 7 5 = s.cfg.extractLsb 7 5) ∧
  (if 4 ≤ n then t.cfg.extractLsb 8 8 = 0#1 else t.cfg.extractLsb 8 8 = s.cfg.extractLsb 8 8) ∧
  (if 6 ≤ n then t.cfg.extractLsb 14 12 = 4#3 else t.cfg.extractLsb 14 12 = s.cfg.extractLsb 14 12) ∧
  t.cfg.extractLsb 11 9 = s.cfg.extractLsb 11 9

/-- From s to t, INIT has come to its n-th transaction, counted from 0, the n before it successful with the draws v: the
first n + 1 transactions are issued, T is the last word read, INITED is 0, and CACHED_RANGE and DATA are kept (R160). -/
def InitReached (n : Nat) (v : Nat → Word) (s t : State) : Prop :=
  s.Issued t ((initRequests s.cfg v).take (n + 1)).reverse ∧ (n = 0 → t.t = s.t) ∧
    (1 ≤ n → t.t = initRead s.cfg v ((n - 1) / 2)) ∧ t.inited = false ∧ t.cachedRange = s.cachedRange ∧
    t.data = s.data ∧ t.cmdr = encode .init

/-- The kinds of transaction there are (R59). -/
inductive Transaction where
  | readConfig | writeConfig | readData
  deriving DecidableEq, Repr

/-- The kind of a request. -/
def transactionOf : BusRequest → Transaction
  | .read .config => .readConfig
  | .read .data => .readData
  | .writeConfig _ => .writeConfig

/-- The transactions the rule of each command lists, in their order (R130 to R139, R150, R151, R160). -/
def transactionsOf : Instr → List Transaction
  | .setrate _ | .setmode _ | .setmux _ | .setrange _ | .setch _ => [.readConfig, .writeConfig]
  | .getrate | .getmode | .getmux | .getrange => [.readConfig]
  | .readv => [.readData]
  | .readvch _ => [.readConfig, .writeConfig, .readData]
  | .init =>
    [.readConfig, .writeConfig, .readConfig, .writeConfig, .readConfig, .writeConfig, .readConfig, .writeConfig]

/-- The command of a mnemonic written with a number; none for a command without operand (R75, R84). -/
def withOperand : Mnemonic → Option (Code → Instr)
  | .setrate => some .setrate
  | .setmode => some .setmode
  | .setmux => some .setmux
  | .setrange => some .setrange
  | .readvch => some .readvch
  | .setch => some .setch
  | .init | .getrate | .getmode | .getmux | .getrange | .readv => none

/-- The command of a mnemonic written alone; none for a command with an operand (R75, R84). -/
def withoutOperand : Mnemonic → Option Instr
  | .init => some .init
  | .getrate => some .getrate
  | .getmode => some .getmode
  | .getmux => some .getmux
  | .getrange => some .getrange
  | .readv => some .readv
  | .setrate | .setmode | .setmux | .setrange | .readvch | .setch => none

/-- The code of a name: its position in the listing of its enumeration (R104 to R107). -/
def positionIn {α : Type} [BEq α] (listing : List α) (name : α) : Code := BitVec.ofNat 3 (listing.idxOf name)

/-- The command of a mnemonic written with a name: only the four setters take one, each those of its own enumeration
(R84, R104 to R107). -/
def withName : Mnemonic → Symbol → Option Instr
  | .setrate, .rate r =>
    some (.setrate (positionIn [.rateOneShot, .sps128, .sps250, .sps490, .sps920, .sps1600, .sps2400, .sps3300] r))
  | .setmode, .mode m => some (.setmode (positionIn [.continuous, .oneShot] m))
  | .setrange, .range g =>
    some (.setrange (positionIn [.fs6144, .fs4096, .fs2048, .fs1024, .fs512, .fs256] g))
  | .setmux, .mux x =>
    some (.setmux (positionIn [.diff0, .diff1, .diff2, .diff3, .se0, .se1, .se2, .se3] x))
  | _, _ => none

/-- The state with these settled answers to come. -/
def withAnswers (s : State) (answers : List BusAnswer) : State :=
  { s with ports := { s.ports with answers := answers } }

end Sys2Proof.Claims

open Sys2Proof Sys2Proof.Machine Sys2Proof.Claims

/-! ## Encoding -/

/-- R75 to R78: words written out bit by bit, CLS SEL Z ARG, one at least of every family, and illegal ones. -/
def Obligations.WordsDecodeAsTheMapSays : Prop :=
  decode 0b00010000#8 = .command .init ∧ decode 0b01000111#8 = .command (.setrate 7#3) ∧
  decode 0b01010010#8 = .command (.setmode 2#3) ∧ decode 0b01100001#8 = .command (.setmux 1#3) ∧
  decode 0b01110110#8 = .command (.setrange 6#3) ∧ decode 0b10000000#8 = .command .getrate ∧
  decode 0b10010000#8 = .command .getmode ∧ decode 0b10100000#8 = .command .getmux ∧
  decode 0b10110000#8 = .command .getrange ∧ decode 0b11000000#8 = .command .readv ∧
  decode 0b11010010#8 = .command (.readvch 2#3) ∧ decode 0b11100011#8 = .command (.setch 3#3) ∧
  decode 0b00000000#8 = .illegal .sysSel ∧ decode 0b00010001#8 = .illegal .sysArg ∧
  decode 0b01001000#8 = .illegal .zBit ∧ decode 0b10000001#8 = .illegal .getArg ∧
  decode 0b11000001#8 = .illegal .readvArg ∧ decode 0b11110000#8 = .illegal .convSel

/-- R76, both directions: the word of a command decodes to it, and a word that decodes to a command is its word. -/
def Obligations.DecodeAndEncodeAgree : Prop :=
  (∀ i : Instr, decode (encode i) = .command i) ∧ ∀ (w : CmdWord) (i : Instr), decode w = .command i → encode i = w

/-- R75: the decoder and the opcode map say the same of every word: a row is hit exactly when the word is a command, the
row's mnemonic is the command's, no word hits two rows, and 54 words hit one. -/
def Obligations.DecoderFollowsTheOpcodeMap : Prop :=
  (∀ (w : CmdWord) (i : Instr), decode w = .command i → (opcodeRow w).map OpcodeRow.mnemonic = some i.mnemonic) ∧
  (∀ (w : CmdWord) (e : DecodeError), decode w = .illegal e → opcodeRow w = none) ∧
  (∀ w : CmdWord, (opcodeMap.filter (fun r => r.hits w)).length ≤ 1) ∧
  ((List.range 256).filter (fun n => (opcodeRow (BitVec.ofNat 8 n)).isSome)).length = 54

/-- R77: exactly these words are illegal; each is accepted and completes at once with ILLEGAL_CMD, without a
transaction and without a change of any state but the response registers. -/
def Obligations.IllegalWordCompletesAtOnce : Prop :=
  (∀ w : CmdWord, (∃ e, decode w = .illegal e) ↔
    w.extractLsb 3 3 = 1#1 ∨
    (w.extractLsb 7 6 = 0b00#2 ∧ (w.extractLsb 5 4 ≠ 0b01#2 ∨ w.extractLsb 2 0 ≠ 0#3)) ∨
    (w.extractLsb 7 6 = 0b10#2 ∧ w.extractLsb 2 0 ≠ 0#3) ∨
    (w.extractLsb 7 6 = 0b11#2 ∧ w.extractLsb 5 4 = 0b11#2) ∨
    (w.extractLsb 7 6 = 0b11#2 ∧ w.extractLsb 5 4 = 0b00#2 ∧ w.extractLsb 2 0 ≠ 0#3)) ∧
  (∀ (s : State) (w : CmdWord) (e : DecodeError) (rest : List CmdWord), s.ports.rst = false → s.busy = false →
    s.ports.commands = w :: rest → decode w = .illegal e →
    ∃ t, step s = .next t ∧ s.Completed t 3#3 0#2 0#17 false ∧ s.Unchanged t ∧ t.cmdr = s.cmdr ∧
      t.ports.commands = rest ∧ t.ports.requests = s.ports.requests ∧ t.ports.draws = s.ports.draws ∧
      t.ports.answers = s.ports.answers ∧ t.ports.rst = false)

/-- R84: what a mnemonic assembles to with a number (where it takes an operand and the number is at most 7), with a
name (where the name is of its enumeration) and alone (where it takes none), and nothing else assembles; a line
assembles exactly when it passes the three checks; every command has a source line; the three worked examples. -/
def Obligations.AssemblerReachesEveryCommand : Prop :=
  (∀ (m : Mnemonic) (n : Nat), assemble ⟨m, some (.number n)⟩ =
    if n ≤ 7 then (withOperand m).map (fun command => command (BitVec.ofNat 3 n)) else none) ∧
  (∀ (m : Mnemonic) (y : Symbol), assemble ⟨m, some (.symbol y)⟩ = withName m y) ∧
  (∀ m : Mnemonic, assemble ⟨m, none⟩ = withoutOperand m) ∧
  (∀ l : SourceLine, l.wellFormed = true ↔ ∃ i, assemble l = some i) ∧
  (∀ i : Instr, ∃ l : SourceLine, assemble l = some i) ∧
  assembleLine "SETRANGE FS2048".toList = some 0x72#8 ∧ assembleLine "READVCH 2".toList = some 0xD2#8 ∧
  assembleLine "INIT".toList = some 0x10#8 ∧ assembleLine "SETRANGE 6".toList = some 0x76#8 ∧
  assembleLine "SETRANGE 8".toList = none

/-! ## The datapath -/

/-- R103: the seven laws of insert and extract. -/
def Obligations.InsertExtractLaws : Prop :=
  ∀ (f g : Field) (r : Word) (c d : Code), f ≠ g → c.toNat < 2 ^ fieldWidth f → d.toNat < 2 ^ fieldWidth g →
    extractField f (insertField f r c) = c ∧
    extractField g (insertField f r c) = extractField g r ∧
    insertField f r c &&& 0x801F#16 = r &&& 0x801F#16 ∧
    (∀ c' : Code, c'.toNat < 2 ^ fieldWidth f → insertField f (insertField f r c) c' = insertField f r c') ∧
    insertField f (insertField g r d) c = insertField g (insertField f r c) d ∧
    insertField f r (extractField f r) = r ∧
    (insertField f r c ^^^ r) &&& ~~~ fieldMask f = 0#16

/-- R22 to R25, R79, R100 to R102: where the four fields stand, in both directions, and through the codec ports of R41
(select 0 rate, 1 mode, 2 mux, 3 range). -/
def Obligations.FieldsStandWhereTheTableSays : Prop :=
  (∀ r : Word, extractPort r 0#2 = r.extractLsb 7 5 ∧ extractPort r 1#2 = (r.extractLsb 8 8).setWidth 3 ∧
    extractPort r 2#2 = r.extractLsb 14 12 ∧ extractPort r 3#2 = r.extractLsb 11 9) ∧
  (∀ (r : Word) (c : Code), insertPort r 0#2 c = (r &&& 0xFF1F#16) ||| (c.setWidth 16 <<< 5) ∧
    insertPort r 1#2 c = (r &&& 0xFEFF#16) ||| ((c &&& 1#3).setWidth 16 <<< 8) ∧
    insertPort r 2#2 c = (r &&& 0x8FFF#16) ||| (c.setWidth 16 <<< 12) ∧
    insertPort r 3#2 c = (r &&& 0xF1FF#16) ||| (c.setWidth 16 <<< 9)) ∧
  (∀ (u : BitVec 1) (x g : Code) (m : BitVec 1) (r : Code) (v : BitVec 5), packConfig u x g m r v =
    (u.setWidth 16 <<< 15) ||| (x.setWidth 16 <<< 12) ||| (g.setWidth 16 <<< 9) ||| (m.setWidth 16 <<< 8) |||
      (r.setWidth 16 <<< 5) ||| v.setWidth 16)

/-- R111: the three forms of count are equal, the low four bits do not matter, and the corner cases. -/
def Obligations.CountHasThreeEqualForms : Prop :=
  (∀ d : Word, count d = (d.extractLsb 15 4).toInt ∧ count d = (d.sshiftRight 4).toInt ∧ count d = d.toInt / 16 ∧
    -2048 ≤ count d ∧ count d ≤ 2047) ∧
  (∀ d d' : Word, d.extractLsb 15 4 = d'.extractLsb 15 4 → count d = count d') ∧
  count 0x8000#16 = -2048 ∧ count 0x7FFF#16 = 2047 ∧ count 0x7FF0#16 = 2047 ∧ count 0xFFFF#16 = -1 ∧
  count 0xFFF0#16 = -1 ∧ count 0x000F#16 = 0 ∧ count 0x0010#16 = 1 ∧ count 0x0FFC#16 = 255

/-- R112 to R114: the converter is the exact product of count and K, inside 17 bits, its extremes are reached, and it
has no value for the codes 6 and 7. -/
def Obligations.ConversionIsExact : Prop :=
  (∀ (d : Word) (g : Code), g.toNat ≤ 5 → ∃ n, mvq3 d g = some n ∧ n.toInt = count d * eighthsPerCount g ∧
    -49152 ≤ n.toInt ∧ n.toInt ≤ 49128 ∧ -2048 * eighthsPerCount g ≤ n.toInt ∧ n.toInt ≤ 2047 * eighthsPerCount g) ∧
  (∀ g : Code, g.toNat ≤ 5 → (∃ n, mvq3 0x8000#16 g = some n ∧ n.toInt = -2048 * eighthsPerCount g) ∧
    ∃ n, mvq3 0x7FF0#16 g = some n ∧ n.toInt = 2047 * eighthsPerCount g) ∧
  (∀ (d : Word) (g : Code), 5 < g.toNat → mvq3 d g = none)

/-- R116: the shift-and-add form gives the same value as the product for every input. -/
def Obligations.ShiftAndAddFormIsTheProduct : Prop :=
  ∀ d : Word, let s : ResWord := (d.extractLsb 15 4).signExtend 17
    mvq3 d 0#3 = some ((s <<< 4) + (s <<< 3)) ∧ mvq3 d 1#3 = some (s <<< 4) ∧ mvq3 d 2#3 = some (s <<< 3) ∧
    mvq3 d 3#3 = some (s <<< 2) ∧ mvq3 d 4#3 = some (s <<< 1) ∧ mvq3 d 5#3 = some s ∧
    ∀ g : Code, mvq3Shift d g = mvq3 d g

/-- R117: the five laws of the converter. -/
def Obligations.ConverterLaws : Prop :=
  (∀ (d d' : Word) (g : Code), d.extractLsb 15 4 = d'.extractLsb 15 4 → mvq3 d g = mvq3 d' g) ∧
  (∀ (d : Word) (g : Code) (n : ResWord), mvq3 d g = some n →
    (0 < n.toInt ↔ 0 < count d) ∧ (n.toInt < 0 ↔ count d < 0) ∧ (n.toInt = 0 ↔ d.extractLsb 15 4 = 0#12)) ∧
  (∀ (d d' : Word) (g : Code) (n n' : ResWord), mvq3 d g = some n → mvq3 d' g = some n' → count d < count d' →
    n.toInt < n'.toInt) ∧
  (∀ (d : Word) (g : Code) (n n' : ResWord), 1 ≤ g.toNat → g.toNat ≤ 4 → mvq3 d g = some n →
    mvq3 d (g + 1#3) = some n' → n.toInt = 2 * n'.toInt) ∧
  (∀ (d : Word) (n n' : ResWord), mvq3 d 0#3 = some n → mvq3 d 2#3 = some n' → n.toInt = 3 * n'.toInt) ∧
  (∀ (d : Word) (g : Code) (n : ResWord), mvq3 d g = some n → eighthsPerCount g ∣ n.toInt) ∧
  (∀ (d : Word) (g : Code) (n : ResWord), g.toNat ≤ 2 → mvq3 d g = some n → n.extractLsb 2 0 = 0#3)

/-- R83: integer millivolts rounded down and the fraction in eighths make up the result, and the volts are its 8000th
part. -/
def Obligations.ResultSplitsIntoMillivoltsAndEighths : Prop :=
  ∀ r : ResWord, r.toInt = 8 * resMillivolts r + resEighths r ∧ resMillivolts r = r.toInt / 8 ∧ resEighths r < 8 ∧
    resVolts r * 8000 = r.toInt

/-- R108 to R110: the channel mapping and the validity tests. -/
def Obligations.ChannelsMapToMuxCodes : Prop :=
  (∀ k : Code, k.toNat ≤ 3 → (seEncode k).toNat = 4 + k.toNat ∧ seDecode (seEncode k) = some (k.extractLsb 1 0)) ∧
  (∀ x : Code, x.toNat ≤ 3 → seDecode x = none) ∧
  (∀ c : Code, valid .rate c = true ∧ valid .mux c = true ∧ (valid .mode c = true ↔ c.toNat ≤ 1) ∧
    (valid .range c = true ↔ c.toNat ≤ 5) ∧ (validChannel c = true ↔ c.toNat ≤ 3))

/-- R53: high byte first, in both directions. -/
def Obligations.TransferIsBigEndian : Prop :=
  (∀ v : Word, be16Pack v = (v.extractLsb 15 8, v.extractLsb 7 0) ∧ be16Unpack (be16Pack v) = v) ∧
  ∀ b0 b1 : BitVec 8, be16Unpack (b0, b1) = b0 ++ b1 ∧ be16Pack (be16Unpack (b0, b1)) = (b0, b1)

/-! ## The configuration commands -/

/-- R131: SETRATE, with every outcome of its two transactions. -/
def Obligations.SetrateWritesTheRateField : Prop :=
  ∀ r : Code, decode (0x40#8 ||| r.setWidth 8) = .command (.setrate r) ∧ ∀ s : State, s.busy = false →
    RmwOutcomes (.setrate r) (fun w => (w &&& 0xFF1F#16) ||| (r.setWidth 16 <<< 5)) State.cachedRange s ∧
    ∀ a b, s.answerAt 0 = .ok a → s.answerAt 1 = .ok b → ∃ t, exec (.setrate r) s = .next t ∧
      t.cfg.extractLsb 7 5 = r ∧ t.cfg.extractLsb 14 8 = s.cfg.extractLsb 14 8

/-- R132: SETMODE, with every outcome of its two transactions, and refused for an operand above 1. -/
def Obligations.SetmodeWritesTheModeField : Prop :=
  ∀ m : Code, decode (0x50#8 ||| m.setWidth 8) = .command (.setmode m) ∧ ∀ s : State, s.busy = false →
    (1 < m.toNat → RefusesOperand (.setmode m) s) ∧
    (m.toNat ≤ 1 →
      RmwOutcomes (.setmode m) (fun w => (w &&& 0xFEFF#16) ||| ((m &&& 1#3).setWidth 16 <<< 8)) State.cachedRange s ∧
      ∀ a b, s.answerAt 0 = .ok a → s.answerAt 1 = .ok b → ∃ t, exec (.setmode m) s = .next t ∧
        t.cfg.extractLsb 8 8 = m.extractLsb 0 0 ∧ t.cfg.extractLsb 14 9 = s.cfg.extractLsb 14 9 ∧
        t.cfg.extractLsb 7 5 = s.cfg.extractLsb 7 5)

/-- R133: SETMUX, with every outcome of its two transactions. -/
def Obligations.SetmuxWritesTheMuxField : Prop :=
  ∀ x : Code, decode (0x60#8 ||| x.setWidth 8) = .command (.setmux x) ∧ ∀ s : State, s.busy = false →
    RmwOutcomes (.setmux x) (fun w => (w &&& 0x8FFF#16) ||| (x.setWidth 16 <<< 12)) State.cachedRange s ∧
    ∀ a b, s.answerAt 0 = .ok a → s.answerAt 1 = .ok b → ∃ t, exec (.setmux x) s = .next t ∧
      t.cfg.extractLsb 14 12 = x ∧ t.cfg.extractLsb 11 5 = s.cfg.extractLsb 11 5

/-- R134: SETRANGE, with every outcome of its two transactions, CACHED_RANGE written on success only, and refused for an
operand above 5. -/
def Obligations.SetrangeWritesFieldThenShadow : Prop :=
  ∀ g : Code, decode (0x70#8 ||| g.setWidth 8) = .command (.setrange g) ∧ ∀ s : State, s.busy = false →
    (5 < g.toNat → RefusesOperand (.setrange g) s) ∧
    (g.toNat ≤ 5 →
      RmwOutcomes (.setrange g) (fun w => (w &&& 0xF1FF#16) ||| (g.setWidth 16 <<< 9)) (fun _ => some g) s ∧
      ∀ a b, s.answerAt 0 = .ok a → s.answerAt 1 = .ok b → ∃ t, exec (.setrange g) s = .next t ∧
        t.cfg.extractLsb 11 9 = g ∧ t.cfg.extractLsb 14 12 = s.cfg.extractLsb 14 12 ∧
        t.cfg.extractLsb 8 5 = s.cfg.extractLsb 8 5 ∧ t.cachedRange = some g)

/-- R139: SETCH, with every outcome of its two transactions, refused for a channel above 3, and on success the same as
SETMUX (4 + k). -/
def Obligations.SetchWritesFourPlusChannel : Prop :=
  ∀ k : Code, decode (0xE0#8 ||| k.setWidth 8) = .command (.setch k) ∧ ∀ s : State, s.busy = false →
    (3 < k.toNat → RefusesOperand (.setch k) s) ∧
    (k.toNat ≤ 3 →
      RmwOutcomes (.setch k) (fun w => (w &&& 0x8FFF#16) ||| ((4#3 + k).setWidth 16 <<< 12)) State.cachedRange s ∧
      (∀ a b, s.answerAt 0 = .ok a → s.answerAt 1 = .ok b → ∃ t, exec (.setch k) s = .next t ∧
        t.cfg.extractLsb 14 12 = 4#3 + k ∧ t.cfg.extractLsb 11 5 = s.cfg.extractLsb 11 5) ∧
      ∀ t u, exec (.setch k) s = .next t → exec (.setmux (4#3 + k)) s = .next u → u = { t with cmdr := u.cmdr })

/-- R135 to R137: GETRATE, GETMODE and GETMUX, with every outcome of their one transaction: RES is the field's code, and
nothing but the response registers changes. -/
def Obligations.GettersReturnTheirField : Prop :=
  decode 0x80#8 = .command .getrate ∧ decode 0x90#8 = .command .getmode ∧ decode 0xA0#8 = .command .getmux ∧
  ∀ s : State, s.busy = false →
    GetterOutcomes .getrate (fun s t => s.Completed t 0#3 0#2 ((s.cfg.extractLsb 7 5).setWidth 17) true) s ∧
    GetterOutcomes .getmode (fun s t => s.Completed t 0#3 0#2 ((s.cfg.extractLsb 8 8).setWidth 17) true) s ∧
    GetterOutcomes .getmux (fun s t => s.Completed t 0#3 0#2 ((s.cfg.extractLsb 14 12).setWidth 17) true) s

/-- R138, R205: GETRANGE, with every outcome of its one transaction: RES is the range code for 0 to 5, RSVD_CODE without
a result for 6 and 7; CACHED_RANGE is not written. -/
def Obligations.GetrangeRefusesReservedCodes : Prop :=
  decode 0xB0#8 = .command .getrange ∧ ∀ s : State, s.busy = false →
    GetterOutcomes .getrange (fun s t =>
      if (s.cfg.extractLsb 11 9).toNat ≤ 5 then s.Completed t 0#3 0#2 ((s.cfg.extractLsb 11 9).setWidth 17) true
      else s.Completed t 5#3 0#2 0#17 false) s

/-- R140: a setter that completes OK, then any number of getters, then a getter that does not end in BUS_ERR: the same
field's getter returns the code set, another field's returns what it would have returned before; SETCH recovers its
channel; after SETRANGE the shadow equals the field. -/
def Obligations.SetThenGetRoundTrip : Prop :=
  (∀ (f g : Field) (c : Code) (between : List Field) (s t u v : State), s.busy = false →
    exec (setCommand f c) s = .next t → t.busy = false → t.status = 0#3 → RunsGetters between t u →
    exec (getCommand g) u = .next v → v.busy = false → v.status ≠ 1#3 →
    (g = f → v.status = 0#3 ∧ v.resValid = true ∧ v.res = c.setWidth 17) ∧
    (g ≠ f → ∀ a w, s.answerAt 0 = .ok a → exec (getCommand g) s = .next w →
      v.status = w.status ∧ v.res = w.res ∧ v.resValid = w.resValid)) ∧
  (∀ (k : Code) (between : List Field) (s t u v : State), s.busy = false → exec (.setch k) s = .next t →
    t.busy = false → t.status = 0#3 → RunsGetters between t u → exec .getmux u = .next v → v.busy = false →
    v.status ≠ 1#3 → seDecode (v.res.setWidth 3) = some (k.extractLsb 1 0)) ∧
  (∀ (g : Code) (between : List Field) (s t u : State), s.busy = false → exec (.setrange g) s = .next t →
    t.busy = false → t.status = 0#3 → RunsGetters between t u →
    u.cachedRange = some g ∧ u.cfg.extractLsb 11 9 = g)

/-! ## The voltage reads -/

/-- R150: READV, refused while INITED = 0, and with every outcome of its one transaction: RES is count times K of
CACHED_RANGE (0 to 5, R39), whatever CFG holds, and neither CFG nor T nor CACHED_RANGE nor INITED changes; a failed or
unanswered read ends alike whatever CACHED_RANGE is. -/
def Obligations.ReadvScalesByTheCachedRange : Prop :=
  decode 0xC0#8 = .command .readv ∧ ∀ s : State, s.busy = false →
    (s.inited = false → RefusesUninitialised .readv s) ∧
    (s.inited = true →
      (∀ e v, s.answerAt 0 = .err e v → ∃ t, exec .readv s = .next t ∧
        s.Completed t 1#3 (busErrCode e) 0#17 false ∧ s.Issued t [.read .data] ∧ s.Unchanged t) ∧
      (s.answerAt 0 = .silent → ∃ t, exec .readv s = .next t ∧ s.Waits t 1 ∧ s.Issued t [.read .data] ∧
        s.Unchanged t ∧ t.cmdr = encode .readv) ∧
      ∀ g d, s.cachedRange = some g → g.toNat ≤ 5 → s.answerAt 0 = .ok d → ∃ t n, exec .readv s = .next t ∧
        s.Completed t 0#3 0#2 n true ∧ n.toInt = (d.extractLsb 15 4).toInt * eighthsPerCount g ∧
        s.Issued t [.read .data] ∧ t.cfg = s.cfg ∧ t.t = s.t ∧ t.cachedRange = s.cachedRange ∧ t.inited = s.inited ∧
        t.cmdr = encode .readv)

/-- R151: READVCH, its two checks in their order, and with every outcome of its three transactions: a fault at the
first leaves CFG unchanged, at the second leaves CFG[14:5] a draw, at the third leaves the mux already written,
whatever CACHED_RANGE is; on success RES is count times K of CACHED_RANGE (0 to 5, R39). -/
def Obligations.ReadvchSelectsThenScales : Prop :=
  ∀ k : Code, decode (0xD0#8 ||| k.setWidth 8) = .command (.readvch k) ∧ ∀ s : State, s.busy = false →
    (3 < k.toNat → RefusesOperand (.readvch k) s) ∧
    (k.toNat ≤ 3 → s.inited = false → RefusesUninitialised (.readvch k) s) ∧
    (k.toNat ≤ 3 → s.inited = true →
      (∀ e v, s.answerAt 0 = .err e v → ∃ t, exec (.readvch k) s = .next t ∧
        s.Completed t 1#3 (busErrCode e) 0#17 false ∧ s.Issued t [.read .config] ∧ s.Unchanged t) ∧
      (s.answerAt 0 = .silent → ∃ t, exec (.readvch k) s = .next t ∧ s.Waits t 1 ∧ s.Issued t [.read .config] ∧
        s.Unchanged t) ∧
      (∀ a, s.answerAt 0 = .ok a →
        let r : Word := (s.cfg &&& 0x7FE0#16) ||| (a &&& 0x801F#16)
        let w : Word := (r &&& 0x8FFF#16) ||| ((4#3 + k).setWidth 16 <<< 12)
        (∀ e v, s.answerAt 1 = .err e v → ∃ t, exec (.readvch k) s = .next t ∧
          s.Completed t 1#3 (busErrCode e) 0#17 false ∧ s.Issued t [.writeConfig w, .read .config] ∧ t.t = r ∧
          t.cfg.extractLsb 14 5 = v.extractLsb 14 5 ∧ s.Kept t) ∧
        (s.answerAt 1 = .silent → ∃ t, exec (.readvch k) s = .next t ∧ s.Waits t 2 ∧
          s.Issued t [.writeConfig w, .read .config] ∧ t.t = r ∧ t.cfg = s.cfg ∧ s.Kept t) ∧
        (∀ b, s.answerAt 1 = .ok b →
          (∀ e v, s.answerAt 2 = .err e v → ∃ t, exec (.readvch k) s = .next t ∧
            s.Completed t 1#3 (busErrCode e) 0#17 false ∧
            s.Issued t [.read .data, .writeConfig w, .read .config] ∧ t.t = r ∧
            t.cfg.extractLsb 14 12 = 4#3 + k ∧ t.cfg.extractLsb 11 5 = s.cfg.extractLsb 11 5 ∧ s.Kept t) ∧
          (s.answerAt 2 = .silent → ∃ t, exec (.readvch k) s = .next t ∧ s.Waits t 3 ∧
            s.Issued t [.read .data, .writeConfig w, .read .config] ∧ t.t = r ∧
            t.cfg.extractLsb 14 12 = 4#3 + k ∧ t.cfg.extractLsb 11 5 = s.cfg.extractLsb 11 5 ∧ s.Kept t) ∧
          ∀ g d, s.cachedRange = some g → g.toNat ≤ 5 → s.answerAt 2 = .ok d → ∃ t n, exec (.readvch k) s = .next t ∧
            s.Completed t 0#3 0#2 n true ∧ n.toInt = (d.extractLsb 15 4).toInt * eighthsPerCount g ∧
            s.Issued t [.read .data, .writeConfig w, .read .config] ∧ t.t = r ∧
            t.cfg.extractLsb 14 12 = 4#3 + k ∧ t.cfg.extractLsb 11 5 = s.cfg.extractLsb 11 5 ∧
            t.cachedRange = s.cachedRange ∧ t.inited = s.inited ∧ t.cmdr = encode (.readvch k))))

/-- The model's own way to hold the sample (log entry 6): after a successful voltage read DATA is the word read. -/
def Obligations.VoltageReadLeavesTheSampleInData : Prop :=
  ∀ (s : State) (g : Code) (d : Word), s.busy = false → s.inited = true → s.cachedRange = some g → g.toNat ≤ 5 →
    (s.answerAt 0 = .ok d → ∃ t, exec .readv s = .next t ∧ t.data = d) ∧
    (∀ (k : Code) (a b : Word), k.toNat ≤ 3 → s.answerAt 0 = .ok a → s.answerAt 1 = .ok b → s.answerAt 2 = .ok d →
      ∃ t, exec (.readvch k) s = .next t ∧ t.data = d)

/-- U15, R112: in a state no run reaches (R39), in which CACHED_RANGE holds no scale, a voltage read stops at its
scaling step, its transactions all done (log entry 10); a failed or unanswered one ends as O23 and O24 say. -/
def Obligations.VoltageReadWithoutScaleStops : Prop :=
  ∀ s : State, s.busy = false → s.inited = true →
    (∀ d, s.answerAt 0 = .ok d →
      (s.cachedRange = none → exec .readv s = .fault .unwrittenRange) ∧
      (∀ g, s.cachedRange = some g → 5 < g.toNat → exec .readv s = .fault .reservedRange)) ∧
    (∀ (k : Code) (a b d : Word), k.toNat ≤ 3 → s.answerAt 0 = .ok a → s.answerAt 1 = .ok b → s.answerAt 2 = .ok d →
      (s.cachedRange = none → exec (.readvch k) s = .fault .unwrittenRange) ∧
      (∀ g, s.cachedRange = some g → 5 < g.toNat → exec (.readvch k) s = .fault .reservedRange))

/-- R152 (1), (2): READVCH k is SETCH k followed by READV with the same answers; and where SETCH k ends in a fault of
the transport, READVCH k leaves the same state. Only CMDR and the record of responses tell them apart. -/
def Obligations.ReadvchIsSetchThenReadv : Prop :=
  ∀ (s t u : State) (k : Code), s.busy = false → s.inited = true → exec (.readvch k) s = .next t →
    exec (.setch k) s = .next u → u.busy = false →
    (u.status = 0#3 → ∃ v, exec .readv u = .next v ∧ t.busy = v.busy ∧
      (v.busy = false → t = { v with cmdr := t.cmdr, ports := { v.ports with responses := t.ports.responses } })) ∧
    (u.status ≠ 0#3 → t = { u with cmdr := t.cmdr })

/-- R152 (3): two voltage reads from states with the same CACHED_RANGE and INITED, whose DATA reads agree in d[15:4],
return the same RES. -/
def Obligations.VoltageDependsOnTheSampleOnly : Prop :=
  ∀ (s u t v : State) (d d' : Word), s.busy = false → u.busy = false → s.inited = true → u.inited = true →
    s.cachedRange = u.cachedRange → d.extractLsb 15 4 = d'.extractLsb 15 4 →
    (s.answerAt 0 = .ok d → u.answerAt 0 = .ok d' → exec .readv s = .next t → exec .readv u = .next v →
      t.res = v.res ∧ t.status = v.status) ∧
    (∀ (k k' : Code) (a b a' b' : Word), k.toNat ≤ 3 → k'.toNat ≤ 3 → s.answerAt 0 = .ok a → s.answerAt 1 = .ok b →
      s.answerAt 2 = .ok d → u.answerAt 0 = .ok a' → u.answerAt 1 = .ok b' → u.answerAt 2 = .ok d' →
      exec (.readvch k) s = .next t → exec (.readvch k') u = .next v → t.res = v.res ∧ t.status = v.status)

/-! ## The initialisation -/

/-- R160, R162: INIT with eight successful transactions: read, write, four times, each read seeing the write before it;
then the driver's defaults, whatever CFG held; bit 15 and bits [4:0] of the last write are those of the fourth read. -/
def Obligations.InitSetsTheDefaults : Prop :=
  decode 0x10#8 = .command .init ∧
  ∀ (s : State) (v : Nat → Word), s.busy = false → (∀ k, k < 8 → s.answerAt k = .ok (v k)) →
    ∃ t, exec .init s = .next t ∧ s.Completed t 0#3 0#2 0#17 false ∧ t.cfg.extractLsb 7 5 = 7#3 ∧
      t.cfg.extractLsb 8 8 = 0#1 ∧ t.cfg.extractLsb 14 12 = 4#3 ∧ t.cfg.extractLsb 11 9 = 0#3 ∧
      t.cfg &&& 0x7FE0#16 = 0x40E0#16 ∧ t.cachedRange = some 0#3 ∧ t.inited = true ∧ t.data = s.data ∧
      t.cmdr = encode .init ∧ s.Issued t (initRequests s.cfg v).reverse ∧ t.t = initRead s.cfg v 3 ∧
      ∃ w earlier, t.ports.requests = .writeConfig w :: earlier ∧ w &&& 0x801F#16 = t.t &&& 0x801F#16 ∧
        w &&& 0x801F#16 = v 6 &&& 0x801F#16

/-- R160, R209: INIT whose n-th transaction (counted from 0) is the first to fail: the transactions issued are the
first n + 1 of its eight, T is the last word read, INITED = 0, CACHED_RANGE kept, and in CFG the sub-steps completed
before, or a draw after a failed write. -/
def Obligations.InitStopsAtTheFirstFailure : Prop :=
  ∀ (s : State) (n : Nat) (v : Nat → Word) (e : BusErr) (draw : Word), s.busy = false → n < 8 →
    (∀ k, k < n → s.answerAt k = .ok (v k)) → s.answerAt n = .err e draw →
    ∃ t, exec .init s = .next t ∧ s.Completed t 1#3 (busErrCode e) 0#17 false ∧ InitReached n v s t ∧
      (n % 2 = 1 → t.cfg.extractLsb 14 5 = draw.extractLsb 14 5) ∧ (n % 2 = 0 → InitFields n s t)

/-- R161: two INIT in a row that both complete OK leave the same fields, CACHED_RANGE and INITED, the defaults; the
second issues all eight transactions, and each of its four writes carries the field bits already in CFG. -/
def Obligations.InitTwiceIsInitOnce : Prop :=
  ∀ s t u : State, s.busy = false → exec .init s = .next t → t.busy = false → t.status = 0#3 →
    exec .init t = .next u → u.busy = false → u.status = 0#3 →
    t.SameFields u ∧ u.cachedRange = t.cachedRange ∧ u.inited = t.inited ∧ u.cfg &&& 0x7FE0#16 = 0x40E0#16 ∧
    u.cachedRange = some 0#3 ∧ u.inited = true ∧
    ∃ w1 w2 w3 w4 : Word,
      t.Issued u [.writeConfig w4, .read .config, .writeConfig w3, .read .config, .writeConfig w2, .read .config,
        .writeConfig w1, .read .config] ∧
      ∀ w ∈ [w1, w2, w3, w4], w.extractLsb 14 5 = t.cfg.extractLsb 14 5

/-! ## Faults, responses, hangs -/

/-- R202: exactly the operands outside their enumeration are refused: CFG_ERR before any transaction, whatever INITED
is, with no state changed but the response registers. -/
def Obligations.OperandFaultsBeforeTheBus : Prop :=
  ∀ (s : State) (i : Instr), s.busy = false →
    ((∃ c : Code, (i = .setmode c ∧ 2 ≤ c.toNat) ∨ (i = .setrange c ∧ 6 ≤ c.toNat) ∨ (i = .setch c ∧ 4 ≤ c.toNat) ∨
      (i = .readvch c ∧ 4 ≤ c.toNat)) ↔ i.inDomain = false) ∧
    (i.inDomain = false → RefusesOperand i s) ∧
    (∀ t, exec i s = .next t → t.busy = false → t.status = 2#3 → i.inDomain = false)

/-- R204: READV and READVCH with a channel 0 to 3 are refused while INITED = 0; no other command ever ends so. -/
def Obligations.VoltageReadNeedsInit : Prop :=
  ∀ (s : State), s.busy = false →
    (s.inited = false → RefusesUninitialised .readv s ∧
      ∀ k : Code, k.toNat ≤ 3 → RefusesUninitialised (.readvch k) s) ∧
    (∀ (i : Instr) (t : State), exec i s = .next t → t.busy = false → t.status = 4#3 →
      readsVoltage i = true ∧ i.inDomain = true ∧ s.inited = false)

/-- R206: a completed command's STATUS is one its row of the table allows. -/
def Obligations.EachCommandRaisesOnlyItsFaults : Prop :=
  ∀ (i : Instr) (s t : State), s.busy = false → exec i s = .next t → t.busy = false →
    match i with
    | .init | .setrate _ | .setmux _ | .getrate | .getmode | .getmux => t.status = 0#3 ∨ t.status = 1#3
    | .setmode _ | .setrange _ | .setch _ => t.status = 0#3 ∨ t.status = 1#3 ∨ t.status = 2#3
    | .getrange => t.status = 0#3 ∨ t.status = 1#3 ∨ t.status = 5#3
    | .readv => t.status = 0#3 ∨ t.status = 1#3 ∨ t.status = 4#3
    | .readvch _ => t.status = 0#3 ∨ t.status = 1#3 ∨ t.status = 2#3 ∨ t.status = 4#3

/-- R200, R208, R40: every accepted command either completes, with exactly one response that carries the response
registers, no result unless STATUS is 0 and ERRINFO 0 unless BUS_ERR; or waits at a transaction with no response. -/
def Obligations.OneResponsePerCompletedCommand : Prop :=
  ∀ (i : Instr) (s t : State), s.busy = false → exec i s = .next t →
    (s.Completed t t.status t.errinfo t.res t.resValid ∧
      (t.status ≠ 0#3 → t.res = 0#17 ∧ t.resValid = false) ∧ (t.status ≠ 1#3 → t.errinfo = 0#2)) ∨
    ∃ n, s.Waits t n

/-- R63, R211: the transactions a command issues are, in order and each once, the first ones of the list its rule gives;
each but the last was answered with success, so nothing follows a failed or an unanswered one. How the last was answered
decides how the command ends: not at all, and it waits there; with an error, and that is its BUS_ERR; with success, the
list whole, and it is OK or RSVD_CODE; CFG_ERR and NOT_INIT come before any. One answer is taken for each; the caller's
side of the ports is not touched; CMDR holds its word. -/
def Obligations.EachTransactionIsIssuedOnce : Prop :=
  ∀ (i : Instr) (s t : State), s.busy = false → exec i s = .next t →
    t.cmdr = encode i ∧ ∃ requests, s.Issued t requests ∧
      requests.reverse.map transactionOf <+: transactionsOf i ∧
      (∀ k, k + 1 < requests.length → ∃ v, s.answerAt k = .ok v) ∧
      (t.busy = true → requests ≠ [] ∧ s.answerAt (requests.length - 1) = .silent ∧ t.seq = .trans requests.length) ∧
      (t.busy = false → t.status = 1#3 → requests ≠ [] ∧
        ∃ e v, s.answerAt (requests.length - 1) = .err e v ∧ t.errinfo = busErrCode e) ∧
      (t.busy = false → t.status = 0#3 ∨ t.status = 5#3 → requests.reverse.map transactionOf = transactionsOf i ∧
        ∃ v, s.answerAt (requests.length - 1) = .ok v) ∧
      (t.busy = false → t.status = 2#3 ∨ t.status = 4#3 → requests = [])

/-- R68, R220: while the pending transaction is unanswered a busy block changes nothing, gives no response and takes no
command; the model's own list and count of answers go on by one (log entry 12). -/
def Obligations.UnansweredTransactionHangs : Prop :=
  ∀ s : State, s.Inv → s.ports.rst = false → s.busy = true → s.answerAt 0 = .silent →
    ∃ t, step s = .next t ∧
      t = { s with ports := { s.ports with answers := s.ports.answers.tail, draws := s.ports.draws + 1 } }

/-- R246: a command presented while BUSY = 1 is not accepted: it waits at the port, and exec refuses it. -/
def Obligations.BusyBlockAcceptsNoCommand : Prop :=
  (∀ s t : State, s.busy = true → s.ports.rst = false → step s = .next t → t.ports.commands = s.ports.commands) ∧
  ∀ (i : Instr) (s : State), s.busy = true → exec i s = .refused .busy

/-- The two grains agree (the model's choice, log entry 12): a command one of whose transactions is answered late, in a
later step, ends as it would have ended had the answer been there at once (the model's own count of draws apart). -/
def Obligations.LateAnswerChangesNothing : Prop :=
  ∀ (i : Instr) (s t : State) (before after : List BusAnswer), s.busy = false → s.ports.rst = false →
    (∀ a ∈ before, a ≠ .silent) → 8 ≤ before.length + after.length →
    exec i (withAnswers s (before ++ .silent :: after)) = .next t → t.busy = true →
    match exec i (withAnswers s (before ++ after)) with
    | .next u => step t = .next { u with ports := { u.ports with draws := u.ports.draws + 1 } }
    | .fault f => step t = .fault f
    | .refused _ => False

/-! ## Steps, reset, whole-machine rules -/

/-- R40, R76: an idle block that is handed the word of a command runs exactly that command, the word taken off the
port. -/
def Obligations.StepRunsTheDecodedCommand : Prop :=
  ∀ (s : State) (w : CmdWord) (rest : List CmdWord) (i : Instr), s.ports.rst = false → s.busy = false →
    s.ports.commands = w :: rest → decode w = .command i →
    step s = exec i { s with ports := { s.ports with commands := rest } }

/-- R241, R242: the values after reset; every command may be issued, and the voltage reads fault with NOT_INIT. That a
step of the block after reset leaves it as it is rests on log entry 7: the model presents nothing at reset, and an idle
step with nothing presented changes nothing. -/
def Obligations.ResetValuesAndReadiness : Prop :=
  State.reset.cfg = Config.cfgPor ∧ State.reset.cachedRange = none ∧ State.reset.inited = false ∧
  State.reset.status = 0#3 ∧ State.reset.errinfo = 0#2 ∧ State.reset.res = 0#17 ∧ State.reset.resValid = false ∧
  State.reset.busy = false ∧ State.reset.seq = .idle ∧ State.reset.cmdReady = true ∧
  step State.reset = .next State.reset ∧ (∀ i : Instr, ∃ t, exec i State.reset = .next t) ∧
  RefusesUninitialised .readv State.reset ∧ ∀ k : Code, k.toNat ≤ 3 → RefusesUninitialised (.readvch k) State.reset

/-- R240, R241: rst, at any time, gives every state of the block its reset value and abandons a running command without
a response. -/
def Obligations.ResetAbandonsTheCommand : Prop :=
  ∀ s : State, s.ports.rst = true → ∃ t, step s = .next t ∧ t.cfg = Config.cfgPor ∧ t.cachedRange = none ∧
    t.inited = false ∧ t.status = 0#3 ∧ t.errinfo = 0#2 ∧ t.res = 0#17 ∧ t.resValid = false ∧ t.busy = false ∧
    t.seq = .idle ∧ t.ports.responses = s.ports.responses

/-- An idle block to which nothing is presented waits, unchanged (the model's step for it, log entry 7). -/
def Obligations.IdleBlockWaits : Prop :=
  ∀ s : State, s.ports.rst = false → s.Finished → step s = .next s

/-- R81, R82: the codes of STATUS and ERRINFO. -/
def Obligations.StatusAndErrorCodes : Prop :=
  statusCode .ok = 0#3 ∧ statusCode .busErr = 1#3 ∧ statusCode .cfgErr = 2#3 ∧ statusCode .illegalCmd = 3#3 ∧
  statusCode .notInit = 4#3 ∧ statusCode .rsvdCode = 5#3 ∧ busErrCode .nack = 1#2 ∧ busErrCode .ioFault = 2#2 ∧
  busErrCode .byteCount = 3#2

/-- The invariant holds at reset. -/
def Obligations.ResetMeetsTheInvariant : Prop := State.reset.Inv

/-- Every step keeps the invariant, from every state that meets it. -/
def Obligations.EveryStepKeepsTheInvariant : Prop :=
  ∀ s t : State, s.Inv → step s = .next t → t.Inv

/-- From every state that meets the invariant the machine has a next state: the model's own stops are never reached. -/
def Obligations.StepNeverStops : Prop :=
  ∀ s : State, s.Inv → ∃ t, step s = .next t

/-- R39: in every reachable state, under every behaviour of the environment, INITED = 1 implies that CACHED_RANGE is
written and holds a code in 0 to 5. -/
def Obligations.InitedImpliesLegalCachedRange : Prop :=
  ∀ s : State, Reachable s → s.inited = true → ∃ g, s.cachedRange = some g ∧ g.toNat ≤ 5

/-- R31, R32, R38: what a step (rst apart) can write. CACHED_RANGE: only SETRANGE and INIT, and only with STATUS 0 and
the field CFG.range at the same code. INITED: only INIT; it becomes 1 only with STATUS 0. CFG: no getter and no READV.
DATA: only the voltage reads (log entry 6). -/
def Obligations.OnlyTheListedCommandsWriteState : Prop :=
  ∀ s t : State, s.Inv → s.ports.rst = false → step s = .next t →
    (t.cachedRange ≠ s.cachedRange → t.busy = false ∧ t.status = 0#3 ∧ t.Coherent ∧
      (t.cmdr = encode .init ∨ ∃ g, t.cmdr = encode (.setrange g))) ∧
    (t.inited ≠ s.inited → t.cmdr = encode .init ∧ (t.inited = true → t.busy = false ∧ t.status = 0#3)) ∧
    (t.cfg ≠ s.cfg → ∀ f, t.cmdr ≠ encode (getCommand f) ∧ t.cmdr ≠ encode .readv) ∧
    (t.data ≠ s.data → t.cmdr = encode .readv ∨ ∃ k, t.cmdr = encode (.readvch k))

/-- R247: the shadow stays equal to the device's range field over every step that does not end in the failure of a write
(a completion with BUS_ERR whose last request is a write). -/
def Obligations.ShadowStaysCoherent : Prop :=
  ∀ s t : State, s.Inv → s.Coherent → s.ports.rst = false → step s = .next t →
    ¬ (t.busy = false ∧ t.status = 1#3 ∧ ∃ w earlier, t.ports.requests = .writeConfig w :: earlier) → t.Coherent

/-- R26: the six undescribed bits of CFG never matter: a command run from two states that differ at most in those bits
and in the draws that fill them, the samples drawn at its read of DATA being equal, ends in two states that differ at
most in those bits, or in the same stop. -/
def Obligations.UndescribedBitsNeverMatter : Prop :=
  ∀ (i : Instr) (s u : State), s.busy = false → s.Alike u →
    (∀ k d d', (transactionsOf i)[k]? = some .readData → s.answerAt k = .ok d → u.answerAt k = .ok d' → d' = d) →
    (∀ t, exec i s = .next t → ∃ t', exec i u = .next t' ∧ t.Alike t') ∧
    ∀ f, exec i s = .fault f → exec i u = .fault f

/-! ## The assembler's names -/

/-- R84, R104 to R107: each symbolic name, and each mnemonic without operand, as it is written in a line, and the
word. -/
def Obligations.EveryNameAssembles : Prop :=
  ∀ e ∈ [("SETRATE RATE_ONE_SHOT", 0x40#8), ("SETRATE SPS128", 0x41#8), ("SETRATE SPS250", 0x42#8),
      ("SETRATE SPS490", 0x43#8), ("SETRATE SPS920", 0x44#8), ("SETRATE SPS1600", 0x45#8), ("SETRATE SPS2400", 0x46#8),
      ("SETRATE SPS3300", 0x47#8), ("SETMODE CONTINUOUS", 0x50#8), ("SETMODE ONE_SHOT", 0x51#8)] ++
      [("SETMUX DIFF0", 0x60#8), ("SETMUX DIFF1", 0x61#8), ("SETMUX DIFF2", 0x62#8), ("SETMUX DIFF3", 0x63#8),
      ("SETMUX SE0", 0x64#8), ("SETMUX SE1", 0x65#8), ("SETMUX SE2", 0x66#8), ("SETMUX SE3", 0x67#8)] ++
      [("SETRANGE FS6144", 0x70#8), ("SETRANGE FS4096", 0x71#8), ("SETRANGE FS2048", 0x72#8),
      ("SETRANGE FS1024", 0x73#8), ("SETRANGE FS512", 0x74#8), ("SETRANGE FS256", 0x75#8)] ++
      [("INIT", 0x10#8), ("GETRATE", 0x80#8), ("GETMODE", 0x90#8), ("GETMUX", 0xA0#8), ("GETRANGE", 0xB0#8),
      ("READV", 0xC0#8), ("READVCH 3", 0xD3#8), ("SETCH 3", 0xE3#8)],
    assembleLine e.1.toList = some e.2

/-! ## INIT on a transport that does not answer -/

/-- R68, R160, R220: INIT whose n-th transaction (counted from 0) is the first without an answer: it waits there, with
no response, the transactions issued the first n + 1 of its eight, T the last word read, INITED = 0, CACHED_RANGE
kept, and in CFG the sub-steps completed before. -/
def Obligations.InitWaitsAtTheFirstSilence : Prop :=
  ∀ (s : State) (n : Nat) (v : Nat → Word), s.busy = false → n < 8 → (∀ k, k < n → s.answerAt k = .ok (v k)) →
    s.answerAt n = .silent →
    ∃ t, exec .init s = .next t ∧ s.Waits t (n + 1) ∧ InitReached n v s t ∧ InitFields n s t
end

