-- ==== Sys2Proof/Laws/Codec.lean ====
section
/-! SUPPORT. What the field encoder and decoder do, bit by bit, and what the converter's pieces are. -/

namespace Sys2Proof.Machine

/-- A field's mask has exactly the field's bits. -/
theorem getLsbD_fieldMask (f : Field) (i : Nat) :
    (fieldMask f).getLsbD i = decide (fieldLo f ≤ i ∧ i < fieldLo f + fieldWidth f) := by
  by_cases h : i < 16
  · have key : ∀ (f : Field) (j : Fin 16),
        (fieldMask f).getLsbD j = decide (fieldLo f ≤ j.val ∧ j.val < fieldLo f + fieldWidth f) := by
      intro f; cases f <;> decide
    exact key f ⟨i, h⟩
  · have hf : fieldLo f + fieldWidth f ≤ 16 := by cases f <;> decide
    rw [BitVec.getLsbD_of_ge _ _ (by omega)]
    symm
    rw [decide_eq_false_iff_not]
    omega

/-- The four masks are pairwise disjoint, the ground of the laws of R103. -/
theorem fieldMask_disjoint {f g : Field} (h : f ≠ g) : fieldMask f &&& fieldMask g = 0#16 := by
  cases f <;> cases g <;> first | exact absurd rfl h | decide

/-- insert, bit by bit: inside the field the code's bits, outside the word's. -/
theorem getLsbD_insertField (f : Field) (r : Word) (c : Code) (i : Nat) :
    (insertField f r c).getLsbD i =
      if fieldLo f ≤ i ∧ i < fieldLo f + fieldWidth f then c.getLsbD (i - fieldLo f) else r.getLsbD i := by
  have hf : fieldLo f + fieldWidth f ≤ 16 := by cases f <;> decide
  simp only [insertField, BitVec.getLsbD_or, BitVec.getLsbD_and, BitVec.getLsbD_not, getLsbD_fieldMask,
    BitVec.getLsbD_shiftLeft, BitVec.getLsbD_setWidth]
  by_cases h : fieldLo f ≤ i ∧ i < fieldLo f + fieldWidth f
  · have h16 : i < 16 := by omega
    simp [h, h16, show i - fieldLo f < 16 by omega, Nat.not_lt.mpr h.1]
  · by_cases h16 : i < 16
    · simp [h, h16]
    · simp [h, h16, BitVec.getLsbD_of_ge r i (by omega)]

/-- extract, bit by bit. -/
theorem getLsbD_extractField (f : Field) (r : Word) (i : Nat) :
    (extractField f r).getLsbD i = (decide (i < fieldWidth f) && r.getLsbD (fieldLo f + i)) := by
  have hf : fieldWidth f ≤ 3 := by cases f <;> decide
  simp only [extractField, BitVec.getLsbD_setWidth, BitVec.getLsbD_ushiftRight, BitVec.getLsbD_and, getLsbD_fieldMask]
  by_cases h : i < fieldWidth f
  · simp [h, show i < 3 by omega]
  · simp [h]

/-- The mask of CFG[14:5], bit by bit. -/
theorem getLsbD_describedMask (i : Nat) : describedMask.getLsbD i = decide (5 ≤ i ∧ i < 15) := by
  by_cases h : i < 16
  · have key : ∀ j : Fin 16, describedMask.getLsbD j = decide (5 ≤ j.val ∧ j.val < 15) := by decide
    exact key ⟨i, h⟩
  · rw [BitVec.getLsbD_of_ge _ _ (by omega)]
    symm
    rw [decide_eq_false_iff_not]
    omega

/-- A word with CFG[14:5] from one value and the six other bits from another, bit by bit. -/
theorem getLsbD_mergeFields (w v : Word) (i : Nat) :
    (mergeFields w v).getLsbD i = if 5 ≤ i ∧ i < 15 then w.getLsbD i else v.getLsbD i := by
  simp only [mergeFields, BitVec.getLsbD_or, BitVec.getLsbD_and, BitVec.getLsbD_not, getLsbD_describedMask]
  by_cases h : 5 ≤ i ∧ i < 15
  · simp [h]
  · by_cases h16 : i < 16
    · simp [h, h16]
    · simp [h, h16, BitVec.getLsbD_of_ge v i (by omega)]

/-- Two words with the same CFG[14:5] agree in each of its bits. -/
theorem getLsbD_of_sameFields {w v : Word} (h : w.extractLsb 14 5 = v.extractLsb 14 5) {i : Nat} (h5 : 5 ≤ i)
    (h15 : i < 15) : w.getLsbD i = v.getLsbD i := by
  have := congrArg (fun x => x.getLsbD (i - 5)) h
  simpa [BitVec.getLsbD_extractLsb, show 5 + (i - 5) = i by omega, show i - 5 < 10 by omega,
    show i - 5 ≤ 9 by omega] using this

/-- Two words with the same CFG[14:5] agree in each of its slices. -/
theorem extractLsb_of_sameFields {w v : Word} (h : w.extractLsb 14 5 = v.extractLsb 14 5) (hi lo : Nat) (hlo : 5 ≤ lo)
    (hhi : hi ≤ 14) (hle : lo ≤ hi) : w.extractLsb hi lo = v.extractLsb hi lo := by
  apply BitVec.eq_of_getLsbD_eq
  intro i _
  simp only [BitVec.getLsbD_extractLsb]
  by_cases hlt : i < hi - lo + 1
  · rw [getLsbD_of_sameFields h (by omega) (by omega)]
  · simp [show ¬ i ≤ hi - lo by omega]

/-- CFG[14:5] of a merged word is the first word's. -/
theorem mergeFields_sameFields (w v : Word) : (mergeFields w v).extractLsb 14 5 = w.extractLsb 14 5 := by
  apply BitVec.eq_of_getLsbD_eq
  intro i hi
  simp only [BitVec.getLsbD_extractLsb, getLsbD_mergeFields]
  rw [if_pos ⟨by omega, by omega⟩]

/-- A slice of CFG[14:5] of a merged word is the first word's. -/
theorem extractLsb_mergeFields (w v : Word) (hi lo : Nat) (hlo : 5 ≤ lo) (hhi : hi ≤ 14) (hle : lo ≤ hi) :
    (mergeFields w v).extractLsb hi lo = w.extractLsb hi lo :=
  extractLsb_of_sameFields (mergeFields_sameFields w v) hi lo hlo hhi hle

/-- extract depends on CFG[14:5] only. -/
theorem extractField_of_sameFields {w v : Word} (h : w.extractLsb 14 5 = v.extractLsb 14 5) (f : Field) :
    extractField f w = extractField f v := by
  have hf : 5 ≤ fieldLo f ∧ fieldLo f + fieldWidth f ≤ 15 := by cases f <;> decide
  apply BitVec.eq_of_getLsbD_eq
  intro i _
  simp only [getLsbD_extractField]
  by_cases hlt : i < fieldWidth f
  · rw [getLsbD_of_sameFields h (by omega) (by omega)]
  · simp [hlt]

@[simp] theorem extractField_mergeFields (f : Field) (w v : Word) :
    extractField f (mergeFields w v) = extractField f w :=
  extractField_of_sameFields (mergeFields_sameFields w v) f

/-- Only the last value of the six other bits counts. -/
@[simp] theorem mergeFields_mergeFields (w v x : Word) : mergeFields (mergeFields w v) x = mergeFields w x := by
  apply BitVec.eq_of_getLsbD_eq
  intro i _
  simp only [getLsbD_mergeFields]
  split <;> rfl

/-- insert into two words with the same CFG[14:5] gives two such words. -/
theorem insertField_sameFields {w v : Word} (h : w.extractLsb 14 5 = v.extractLsb 14 5) (f : Field) (c : Code) :
    (insertField f w c).extractLsb 14 5 = (insertField f v c).extractLsb 14 5 := by
  apply BitVec.eq_of_getLsbD_eq
  intro i hi
  simp only [BitVec.getLsbD_extractLsb, getLsbD_insertField]
  rw [getLsbD_of_sameFields h (by omega) (by omega)]

/-- Round trip (R103 law 1): what is inserted is extracted, as far as the field is wide. -/
theorem extractField_insertField (f : Field) (r : Word) (c : Code) (h : c.toNat < 2 ^ fieldWidth f) :
    extractField f (insertField f r c) = c := by
  apply BitVec.eq_of_getLsbD_eq
  intro i _
  rw [getLsbD_extractField, getLsbD_insertField]
  by_cases hlt : i < fieldWidth f
  · rw [if_pos ⟨by omega, by omega⟩, show fieldLo f + i - fieldLo f = i by omega]
    simp [hlt]
  · simp only [hlt, decide_false, Bool.false_and]
    rw [← BitVec.testBit_toNat]
    exact (Nat.testBit_lt_two_pow (lt_of_lt_of_le h (Nat.pow_le_pow_right (by omega) (by omega)))).symm

/-- Isolation (R103 law 2): another field is as it was. -/
theorem extractField_insertField_of_ne {f g : Field} (h : f ≠ g) (r : Word) (c : Code) :
    extractField g (insertField f r c) = extractField g r := by
  have hd : fieldLo g + fieldWidth g ≤ fieldLo f ∨ fieldLo f + fieldWidth f ≤ fieldLo g := by
    cases f <;> cases g <;> first | exact absurd rfl h | decide
  apply BitVec.eq_of_getLsbD_eq
  intro i _
  simp only [getLsbD_extractField, getLsbD_insertField]
  by_cases hlt : i < fieldWidth g
  · rw [if_neg (by omega)]
  · simp [hlt]

/-- CFG.rate stands in bits [7:5] (R100, R102). -/
theorem extractField_rate (r : Word) : extractField .rate r = r.extractLsb 7 5 := by
  apply BitVec.eq_of_getLsbD_eq
  intro i hi
  have : i < 3 := hi
  rw [getLsbD_extractField, BitVec.getLsbD_extractLsb]
  simp [fieldLo, fieldWidth, this]

/-- CFG.mode stands in bit [8] (R100, R102). -/
theorem extractField_mode (r : Word) : extractField .mode r = (r.extractLsb 8 8).setWidth 3 := by
  apply BitVec.eq_of_getLsbD_eq
  intro i hi
  have : i < 3 := hi
  rw [getLsbD_extractField, BitVec.getLsbD_setWidth, BitVec.getLsbD_extractLsb]
  simp [fieldLo, fieldWidth, this]

/-- CFG.mux stands in bits [14:12] (R100, R102). -/
theorem extractField_mux (r : Word) : extractField .mux r = r.extractLsb 14 12 := by
  apply BitVec.eq_of_getLsbD_eq
  intro i hi
  have : i < 3 := hi
  rw [getLsbD_extractField, BitVec.getLsbD_extractLsb]
  simp [fieldLo, fieldWidth, this]

/-- CFG.range stands in bits [11:9] (R100, R102). -/
theorem extractField_range (r : Word) : extractField .range r = r.extractLsb 11 9 := by
  apply BitVec.eq_of_getLsbD_eq
  intro i hi
  have : i < 3 := hi
  rw [getLsbD_extractField, BitVec.getLsbD_extractLsb]
  simp [fieldLo, fieldWidth, this]

/-- The word SETRATE writes (R131). -/
theorem insertField_rate (r : Word) (c : Code) :
    insertField .rate r c = (r &&& 0xFF1F#16) ||| (c.setWidth 16 <<< 5) := by
  have h : ∀ c : Code, (c.setWidth 16 <<< 5) &&& fieldMask .rate = c.setWidth 16 <<< 5 := by decide
  rw [insertField, show ~~~ fieldMask .rate = 0xFF1F#16 from rfl, show fieldLo .rate = 5 from rfl, h c]

/-- The word SETMODE writes (R132). -/
theorem insertField_mode (r : Word) (c : Code) :
    insertField .mode r c = (r &&& 0xFEFF#16) ||| ((c &&& 1#3).setWidth 16 <<< 8) := by
  have h : ∀ c : Code, (c.setWidth 16 <<< 8) &&& fieldMask .mode = (c &&& 1#3).setWidth 16 <<< 8 := by decide
  rw [insertField, show ~~~ fieldMask .mode = 0xFEFF#16 from rfl, show fieldLo .mode = 8 from rfl, h c]

/-- The word SETMUX writes (R133). -/
theorem insertField_mux (r : Word) (c : Code) :
    insertField .mux r c = (r &&& 0x8FFF#16) ||| (c.setWidth 16 <<< 12) := by
  have h : ∀ c : Code, (c.setWidth 16 <<< 12) &&& fieldMask .mux = c.setWidth 16 <<< 12 := by decide
  rw [insertField, show ~~~ fieldMask .mux = 0x8FFF#16 from rfl, show fieldLo .mux = 12 from rfl, h c]

/-- The word SETRANGE writes (R134). -/
theorem insertField_range (r : Word) (c : Code) :
    insertField .range r c = (r &&& 0xF1FF#16) ||| (c.setWidth 16 <<< 9) := by
  have h : ∀ c : Code, (c.setWidth 16 <<< 9) &&& fieldMask .range = c.setWidth 16 <<< 9 := by decide
  rw [insertField, show ~~~ fieldMask .range = 0xF1FF#16 from rfl, show fieldLo .range = 9 from rfl, h c]

/-- The sample of a raw word stands in d[15:4] (R80). -/
theorem sampleOf_eq (d : Word) : sampleOf d = d.extractLsb 15 4 := rfl

/-- A count is a 12-bit two's-complement number (R111). -/
theorem count_bounds (d : Word) : -2048 ≤ count d ∧ count d ≤ 2047 := by
  unfold count
  generalize sampleOf d = x
  exact ⟨BitVec.le_toInt x, Int.le_of_lt_add_one (BitVec.toInt_lt (x := x))⟩

/-- The scaled sample is the exact product, for every entry of K (R113, R114). -/
theorem toInt_scaled (d : Word) (k : Int) (h0 : 0 ≤ k) (h24 : k ≤ 24) : (scaled d k).toInt = count d * k := by
  have ⟨h1, h2⟩ := count_bounds d
  have hlo : -2048 * 24 ≤ count d * k := by nlinarith
  have hhi : count d * k ≤ 2047 * 24 := by nlinarith
  rw [scaled, BitVec.toInt_ofInt]
  apply Int.bmod_eq_of_le <;> omega

/-- Every code 0 to 5 has a scale, between 0 and 24 (R112). -/
theorem scaleK_legal {g : Code} (h : g.toNat ≤ 5) : ∃ k, scaleK g = some k ∧ 0 ≤ k ∧ k ≤ 24 := by
  have key : ∀ g : Code, g.toNat ≤ 5 → (scaleK g).any (fun k => decide (0 ≤ k ∧ k ≤ 24)) = true := by decide
  have hb := key g h
  cases hk : scaleK g with
  | none => simp [hk] at hb
  | some k => exact ⟨k, rfl, by simpa [hk] using hb⟩

/-- The converter has a value for every code 0 to 5 (R113). -/
theorem mvq3_legal (d : Word) {g : Code} (h : g.toNat ≤ 5) : ∃ n, mvq3 d g = some n := by
  obtain ⟨k, hk, _⟩ := scaleK_legal h
  exact ⟨scaled d k, by simp [mvq3, hk]⟩

/-- The converter has no value for the reserved codes 6 and 7 (R112). -/
theorem mvq3_reserved (d : Word) {g : Code} (h : 5 < g.toNat) : mvq3 d g = none := by
  have key : ∀ g : Code, 5 < g.toNat → scaleK g = none := by decide
  simp [mvq3, key g h]

end Sys2Proof.Machine
end

