-- ==== Sys2Proof/Laws/State.lean ====
section
/-! SUPPORT. One lemma per field per update of the state, and which updates leave the coming answers alone; with these
no later proof unfolds a record update. -/

namespace Sys2Proof.Machine

variable (s : State)

@[simp] theorem State.completeOk_eq : s.completeOk = s.respond 0#3 0#2 0#17 false := rfl
@[simp] theorem State.completeWith_eq (v : ResWord) : s.completeWith v = s.respond 0#3 0#2 v true := rfl
@[simp] theorem State.failBus_eq (e : BusErr) : s.failBus e = s.respond 1#3 (busErrCode e) 0#17 false := rfl
@[simp] theorem State.reject_eq (c : Status) : s.reject c = s.respond (statusCode c) 0#2 0#17 false := rfl
@[simp] theorem State.fail_eq (c : Status) (e : ErrWord) : s.fail c e = s.respond (statusCode c) e 0#17 false := rfl


@[simp] theorem State.respond_cfg (st : BitVec 3) (e : ErrWord) (r : ResWord) (v : Bool) : (s.respond st e r v).cfg = s.cfg := rfl
@[simp] theorem State.respond_data (st : BitVec 3) (e : ErrWord) (r : ResWord) (v : Bool) : (s.respond st e r v).data = s.data := rfl
@[simp] theorem State.respond_cachedRange (st : BitVec 3) (e : ErrWord) (r : ResWord) (v : Bool) : (s.respond st e r v).cachedRange = s.cachedRange := rfl
@[simp] theorem State.respond_inited (st : BitVec 3) (e : ErrWord) (r : ResWord) (v : Bool) : (s.respond st e r v).inited = s.inited := rfl
@[simp] theorem State.respond_status (st : BitVec 3) (e : ErrWord) (r : ResWord) (v : Bool) : (s.respond st e r v).status = st := rfl
@[simp] theorem State.respond_errinfo (st : BitVec 3) (e : ErrWord) (r : ResWord) (v : Bool) : (s.respond st e r v).errinfo = e := rfl
@[simp] theorem State.respond_res (st : BitVec 3) (e : ErrWord) (r : ResWord) (v : Bool) : (s.respond st e r v).res = r := rfl
@[simp] theorem State.respond_resValid (st : BitVec 3) (e : ErrWord) (r : ResWord) (v : Bool) : (s.respond st e r v).resValid = v := rfl
@[simp] theorem State.respond_busy (st : BitVec 3) (e : ErrWord) (r : ResWord) (v : Bool) : (s.respond st e r v).busy = false := rfl
@[simp] theorem State.respond_cmdr (st : BitVec 3) (e : ErrWord) (r : ResWord) (v : Bool) : (s.respond st e r v).cmdr = s.cmdr := rfl
@[simp] theorem State.respond_t (st : BitVec 3) (e : ErrWord) (r : ResWord) (v : Bool) : (s.respond st e r v).t = s.t := rfl
@[simp] theorem State.respond_seq (st : BitVec 3) (e : ErrWord) (r : ResWord) (v : Bool) : (s.respond st e r v).seq = .idle := rfl
@[simp] theorem State.respond_ports (st : BitVec 3) (e : ErrWord) (r : ResWord) (v : Bool) : (s.respond st e r v).ports = { s.ports with responses := ⟨st, e, r, v⟩ :: s.ports.responses } := rfl

@[simp] theorem State.accept_cfg (w : CmdWord) : (s.accept w).cfg = s.cfg := rfl
@[simp] theorem State.accept_data (w : CmdWord) : (s.accept w).data = s.data := rfl
@[simp] theorem State.accept_cachedRange (w : CmdWord) : (s.accept w).cachedRange = s.cachedRange := rfl
@[simp] theorem State.accept_inited (w : CmdWord) : (s.accept w).inited = s.inited := rfl
@[simp] theorem State.accept_status (w : CmdWord) : (s.accept w).status = s.status := rfl
@[simp] theorem State.accept_errinfo (w : CmdWord) : (s.accept w).errinfo = s.errinfo := rfl
@[simp] theorem State.accept_res (w : CmdWord) : (s.accept w).res = s.res := rfl
@[simp] theorem State.accept_resValid (w : CmdWord) : (s.accept w).resValid = s.resValid := rfl
@[simp] theorem State.accept_busy (w : CmdWord) : (s.accept w).busy = true := rfl
@[simp] theorem State.accept_cmdr (w : CmdWord) : (s.accept w).cmdr = w := rfl
@[simp] theorem State.accept_t (w : CmdWord) : (s.accept w).t = s.t := rfl
@[simp] theorem State.accept_seq (w : CmdWord) : (s.accept w).seq = s.seq := rfl
@[simp] theorem State.accept_ports (w : CmdWord) : (s.accept w).ports = s.ports := rfl

@[simp] theorem State.drawn_cfg : s.drawn.cfg = s.cfg := rfl
@[simp] theorem State.drawn_data : s.drawn.data = s.data := rfl
@[simp] theorem State.drawn_cachedRange : s.drawn.cachedRange = s.cachedRange := rfl
@[simp] theorem State.drawn_inited : s.drawn.inited = s.inited := rfl
@[simp] theorem State.drawn_status : s.drawn.status = s.status := rfl
@[simp] theorem State.drawn_errinfo : s.drawn.errinfo = s.errinfo := rfl
@[simp] theorem State.drawn_res : s.drawn.res = s.res := rfl
@[simp] theorem State.drawn_resValid : s.drawn.resValid = s.resValid := rfl
@[simp] theorem State.drawn_busy : s.drawn.busy = s.busy := rfl
@[simp] theorem State.drawn_cmdr : s.drawn.cmdr = s.cmdr := rfl
@[simp] theorem State.drawn_t : s.drawn.t = s.t := rfl
@[simp] theorem State.drawn_seq : s.drawn.seq = s.seq := rfl
@[simp] theorem State.drawn_ports : s.drawn.ports = { s.ports with answers := s.ports.answers.tail, draws := s.ports.draws + 1 } := rfl

@[simp] theorem State.request_cfg (n : Nat) (r : BusRequest) : (s.request n r).cfg = s.cfg := rfl
@[simp] theorem State.request_data (n : Nat) (r : BusRequest) : (s.request n r).data = s.data := rfl
@[simp] theorem State.request_cachedRange (n : Nat) (r : BusRequest) : (s.request n r).cachedRange = s.cachedRange := rfl
@[simp] theorem State.request_inited (n : Nat) (r : BusRequest) : (s.request n r).inited = s.inited := rfl
@[simp] theorem State.request_status (n : Nat) (r : BusRequest) : (s.request n r).status = s.status := rfl
@[simp] theorem State.request_errinfo (n : Nat) (r : BusRequest) : (s.request n r).errinfo = s.errinfo := rfl
@[simp] theorem State.request_res (n : Nat) (r : BusRequest) : (s.request n r).res = s.res := rfl
@[simp] theorem State.request_resValid (n : Nat) (r : BusRequest) : (s.request n r).resValid = s.resValid := rfl
@[simp] theorem State.request_busy (n : Nat) (r : BusRequest) : (s.request n r).busy = s.busy := rfl
@[simp] theorem State.request_cmdr (n : Nat) (r : BusRequest) : (s.request n r).cmdr = s.cmdr := rfl
@[simp] theorem State.request_t (n : Nat) (r : BusRequest) : (s.request n r).t = s.t := rfl
@[simp] theorem State.request_seq (n : Nat) (r : BusRequest) : (s.request n r).seq = .trans n := rfl
@[simp] theorem State.request_ports (n : Nat) (r : BusRequest) : (s.request n r).ports = { s.ports with requests := r :: s.ports.requests } := rfl

@[simp] theorem State.configWritten_cfg (w d : Word) : (s.configWritten w d).cfg = mergeFields w d := rfl
@[simp] theorem State.configWritten_data (w d : Word) : (s.configWritten w d).data = s.data := rfl
@[simp] theorem State.configWritten_cachedRange (w d : Word) : (s.configWritten w d).cachedRange = s.cachedRange := rfl
@[simp] theorem State.configWritten_inited (w d : Word) : (s.configWritten w d).inited = s.inited := rfl
@[simp] theorem State.configWritten_status (w d : Word) : (s.configWritten w d).status = s.status := rfl
@[simp] theorem State.configWritten_errinfo (w d : Word) : (s.configWritten w d).errinfo = s.errinfo := rfl
@[simp] theorem State.configWritten_res (w d : Word) : (s.configWritten w d).res = s.res := rfl
@[simp] theorem State.configWritten_resValid (w d : Word) : (s.configWritten w d).resValid = s.resValid := rfl
@[simp] theorem State.configWritten_busy (w d : Word) : (s.configWritten w d).busy = s.busy := rfl
@[simp] theorem State.configWritten_cmdr (w d : Word) : (s.configWritten w d).cmdr = s.cmdr := rfl
@[simp] theorem State.configWritten_t (w d : Word) : (s.configWritten w d).t = s.t := rfl
@[simp] theorem State.configWritten_seq (w d : Word) : (s.configWritten w d).seq = s.seq := rfl
@[simp] theorem State.configWritten_ports (w d : Word) : (s.configWritten w d).ports = s.ports := rfl

@[simp] theorem State.configTorn_cfg (d : Word) : (s.configTorn d).cfg = d := rfl
@[simp] theorem State.configTorn_data (d : Word) : (s.configTorn d).data = s.data := rfl
@[simp] theorem State.configTorn_cachedRange (d : Word) : (s.configTorn d).cachedRange = s.cachedRange := rfl
@[simp] theorem State.configTorn_inited (d : Word) : (s.configTorn d).inited = s.inited := rfl
@[simp] theorem State.configTorn_status (d : Word) : (s.configTorn d).status = s.status := rfl
@[simp] theorem State.configTorn_errinfo (d : Word) : (s.configTorn d).errinfo = s.errinfo := rfl
@[simp] theorem State.configTorn_res (d : Word) : (s.configTorn d).res = s.res := rfl
@[simp] theorem State.configTorn_resValid (d : Word) : (s.configTorn d).resValid = s.resValid := rfl
@[simp] theorem State.configTorn_busy (d : Word) : (s.configTorn d).busy = s.busy := rfl
@[simp] theorem State.configTorn_cmdr (d : Word) : (s.configTorn d).cmdr = s.cmdr := rfl
@[simp] theorem State.configTorn_t (d : Word) : (s.configTorn d).t = s.t := rfl
@[simp] theorem State.configTorn_seq (d : Word) : (s.configTorn d).seq = s.seq := rfl
@[simp] theorem State.configTorn_ports (d : Word) : (s.configTorn d).ports = s.ports := rfl

@[simp] theorem State.sampled_cfg (d : Word) : (s.sampled d).cfg = s.cfg := rfl
@[simp] theorem State.sampled_data (d : Word) : (s.sampled d).data = d := rfl
@[simp] theorem State.sampled_cachedRange (d : Word) : (s.sampled d).cachedRange = s.cachedRange := rfl
@[simp] theorem State.sampled_inited (d : Word) : (s.sampled d).inited = s.inited := rfl
@[simp] theorem State.sampled_status (d : Word) : (s.sampled d).status = s.status := rfl
@[simp] theorem State.sampled_errinfo (d : Word) : (s.sampled d).errinfo = s.errinfo := rfl
@[simp] theorem State.sampled_res (d : Word) : (s.sampled d).res = s.res := rfl
@[simp] theorem State.sampled_resValid (d : Word) : (s.sampled d).resValid = s.resValid := rfl
@[simp] theorem State.sampled_busy (d : Word) : (s.sampled d).busy = s.busy := rfl
@[simp] theorem State.sampled_cmdr (d : Word) : (s.sampled d).cmdr = s.cmdr := rfl
@[simp] theorem State.sampled_t (d : Word) : (s.sampled d).t = s.t := rfl
@[simp] theorem State.sampled_seq (d : Word) : (s.sampled d).seq = s.seq := rfl
@[simp] theorem State.sampled_ports (d : Word) : (s.sampled d).ports = s.ports := rfl

@[simp] theorem State.withT_cfg (v : Word) : (s.withT v).cfg = s.cfg := rfl
@[simp] theorem State.withT_data (v : Word) : (s.withT v).data = s.data := rfl
@[simp] theorem State.withT_cachedRange (v : Word) : (s.withT v).cachedRange = s.cachedRange := rfl
@[simp] theorem State.withT_inited (v : Word) : (s.withT v).inited = s.inited := rfl
@[simp] theorem State.withT_status (v : Word) : (s.withT v).status = s.status := rfl
@[simp] theorem State.withT_errinfo (v : Word) : (s.withT v).errinfo = s.errinfo := rfl
@[simp] theorem State.withT_res (v : Word) : (s.withT v).res = s.res := rfl
@[simp] theorem State.withT_resValid (v : Word) : (s.withT v).resValid = s.resValid := rfl
@[simp] theorem State.withT_busy (v : Word) : (s.withT v).busy = s.busy := rfl
@[simp] theorem State.withT_cmdr (v : Word) : (s.withT v).cmdr = s.cmdr := rfl
@[simp] theorem State.withT_t (v : Word) : (s.withT v).t = v := rfl
@[simp] theorem State.withT_seq (v : Word) : (s.withT v).seq = s.seq := rfl
@[simp] theorem State.withT_ports (v : Word) : (s.withT v).ports = s.ports := rfl

@[simp] theorem State.withCachedRange_cfg (g : Code) : (s.withCachedRange g).cfg = s.cfg := rfl
@[simp] theorem State.withCachedRange_data (g : Code) : (s.withCachedRange g).data = s.data := rfl
@[simp] theorem State.withCachedRange_cachedRange (g : Code) : (s.withCachedRange g).cachedRange = some g := rfl
@[simp] theorem State.withCachedRange_inited (g : Code) : (s.withCachedRange g).inited = s.inited := rfl
@[simp] theorem State.withCachedRange_status (g : Code) : (s.withCachedRange g).status = s.status := rfl
@[simp] theorem State.withCachedRange_errinfo (g : Code) : (s.withCachedRange g).errinfo = s.errinfo := rfl
@[simp] theorem State.withCachedRange_res (g : Code) : (s.withCachedRange g).res = s.res := rfl
@[simp] theorem State.withCachedRange_resValid (g : Code) : (s.withCachedRange g).resValid = s.resValid := rfl
@[simp] theorem State.withCachedRange_busy (g : Code) : (s.withCachedRange g).busy = s.busy := rfl
@[simp] theorem State.withCachedRange_cmdr (g : Code) : (s.withCachedRange g).cmdr = s.cmdr := rfl
@[simp] theorem State.withCachedRange_t (g : Code) : (s.withCachedRange g).t = s.t := rfl
@[simp] theorem State.withCachedRange_seq (g : Code) : (s.withCachedRange g).seq = s.seq := rfl
@[simp] theorem State.withCachedRange_ports (g : Code) : (s.withCachedRange g).ports = s.ports := rfl

@[simp] theorem State.withInited_cfg (b : Bool) : (s.withInited b).cfg = s.cfg := rfl
@[simp] theorem State.withInited_data (b : Bool) : (s.withInited b).data = s.data := rfl
@[simp] theorem State.withInited_cachedRange (b : Bool) : (s.withInited b).cachedRange = s.cachedRange := rfl
@[simp] theorem State.withInited_inited (b : Bool) : (s.withInited b).inited = b := rfl
@[simp] theorem State.withInited_status (b : Bool) : (s.withInited b).status = s.status := rfl
@[simp] theorem State.withInited_errinfo (b : Bool) : (s.withInited b).errinfo = s.errinfo := rfl
@[simp] theorem State.withInited_res (b : Bool) : (s.withInited b).res = s.res := rfl
@[simp] theorem State.withInited_resValid (b : Bool) : (s.withInited b).resValid = s.resValid := rfl
@[simp] theorem State.withInited_busy (b : Bool) : (s.withInited b).busy = s.busy := rfl
@[simp] theorem State.withInited_cmdr (b : Bool) : (s.withInited b).cmdr = s.cmdr := rfl
@[simp] theorem State.withInited_t (b : Bool) : (s.withInited b).t = s.t := rfl
@[simp] theorem State.withInited_seq (b : Bool) : (s.withInited b).seq = s.seq := rfl
@[simp] theorem State.withInited_ports (b : Bool) : (s.withInited b).ports = s.ports := rfl

/-! The coming answers. -/

@[simp] theorem State.answerAt_drawn (k : Nat) : s.drawn.answerAt k = s.answerAt (k + 1) := by
  unfold State.answerAt
  simp only [State.drawn_ports, List.getElem?_tail]
  cases s.ports.answers[k + 1]? <;> simp [Nat.add_assoc, Nat.add_comm 1 k]

@[simp] theorem State.answerAt_respond (st : BitVec 3) (e : ErrWord) (r : ResWord) (v : Bool) (k : Nat) : (s.respond st e r v).answerAt k = s.answerAt k := rfl
@[simp] theorem State.answerAt_accept (w : CmdWord) (k : Nat) : (s.accept w).answerAt k = s.answerAt k := rfl
@[simp] theorem State.answerAt_request (n : Nat) (r : BusRequest) (k : Nat) : (s.request n r).answerAt k = s.answerAt k := rfl
@[simp] theorem State.answerAt_configWritten (w d : Word) (k : Nat) : (s.configWritten w d).answerAt k = s.answerAt k := rfl
@[simp] theorem State.answerAt_configTorn (d : Word) (k : Nat) : (s.configTorn d).answerAt k = s.answerAt k := rfl
@[simp] theorem State.answerAt_sampled (d : Word) (k : Nat) : (s.sampled d).answerAt k = s.answerAt k := rfl
@[simp] theorem State.answerAt_withT (v : Word) (k : Nat) : (s.withT v).answerAt k = s.answerAt k := rfl
@[simp] theorem State.answerAt_withCachedRange (g : Code) (k : Nat) : (s.withCachedRange g).answerAt k = s.answerAt k := rfl
@[simp] theorem State.answerAt_withInited (b : Bool) (k : Nat) : (s.withInited b).answerAt k = s.answerAt k := rfl

end Sys2Proof.Machine
end

