-- ==== Sys2Proof/Laws/Ops.lean ====
section
/-! SUPPORT. What each shared operation can do, said once: meeting an answer, one action, a run of actions, and the
scaling step of a voltage read. -/

namespace Sys2Proof.Machine

variable {s : State}

/-- A successful answer: the transaction's effect. -/
theorem State.await_ok {v : Word} {onErr : Word → State → State} {onOk : Word → State → Run}
    (h : s.answerAt 0 = .ok v) : s.await onErr onOk = onOk v s.drawn := by simp [State.await, h]

/-- A failed answer: what the failed transaction leaves, then BUS_ERR. -/
theorem State.await_err {e : BusErr} {v : Word} {onErr : Word → State → State} {onOk : Word → State → Run}
    (h : s.answerAt 0 = .err e v) : s.await onErr onOk = .ended ((onErr v s.drawn).failBus e) := by
  simp [State.await, h]

/-- No answer: nothing changes but the environment's own count. -/
theorem State.await_silent {onErr : Word → State → State} {onOk : Word → State → Run} (h : s.answerAt 0 = .silent) :
    s.await onErr onOk = .ended s.drawn := by simp [State.await, h]

/-- Everything the meeting with an answer can do. -/
theorem State.await_cases (s : State) (onErr : Word → State → State) (onOk : Word → State → Run) :
    (s.answerAt 0 = .silent ∧ s.await onErr onOk = .ended s.drawn) ∨
    (∃ e v, s.answerAt 0 = .err e v ∧ s.await onErr onOk = .ended ((onErr v s.drawn).failBus e)) ∨
    (∃ v, s.answerAt 0 = .ok v ∧ s.await onErr onOk = onOk v s.drawn) := by
  rcases h : s.answerAt 0 with v | ⟨e, v⟩ | _
  · exact .inr (.inr ⟨v, rfl, State.await_ok h⟩)
  · exact .inr (.inl ⟨e, v, rfl, State.await_err h⟩)
  · exact .inl ⟨rfl, State.await_silent h⟩

@[simp] theorem runFrom_nil (n : Nat) : runFrom [] n s = .ended s.completeOk := rfl

/-- A run does its first action, then the rest. -/
theorem runFrom_cons (a : Action) (rest : List Action) (n : Nat) :
    runFrom (a :: rest) n s = perform a (s.reach a n) (fun s1 => runFrom rest (nextSeq a n) s1) := rfl

/-- A run, action by action: P holds of what is left of the text, and of the state, before each action; Q of where the
run comes to. -/
theorem runFrom_rule (P : List Action → Nat → State → Prop) (Q : Run → Prop)
    (hnil : ∀ n u, P [] n u → Q (.ended u.completeOk))
    (hcons : ∀ a rest n u, P (a :: rest) n u → ∀ k : State → Run, (∀ v, P rest (nextSeq a n) v → Q (k v)) →
      Q (perform a (u.reach a n) k)) (text : List Action) (n : Nat) (s : State) (h : P text n s) :
    Q (runFrom text n s) := by
  induction text generalizing n s with
  | nil => exact hnil n s h
  | cons a rest ih => exact hcons a rest n s h _ fun v hv => ih (nextSeq a n) v hv

@[simp] theorem Run.state_ended : (Run.ended s).state = s := rfl

@[simp] theorem Run.state_sampled : (Run.sampled s).state = s := rfl

@[simp] theorem Run.out_ended : (Run.ended s).out = .next s := rfl

@[simp] theorem Run.out_sampled : (Run.sampled s).out = s.sampleEnd := rfl

/-- A meeting with an answer comes to no scaling step where its success does not. -/
theorem State.await_ended {onErr : Word → State → State} {onOk : Word → State → Run}
    (h : ∀ v u, onOk v u = .ended (onOk v u).state) : s.await onErr onOk = .ended (s.await onErr onOk).state := by
  unfold State.await
  split
  · rfl
  · rfl
  · exact h _ _

/-- Only a text that reads DATA comes to a scaling step. -/
theorem runFrom_ended {text : List Action} (h : Action.sample ∉ text) (n : Nat) (s : State) :
    runFrom text n s = .ended (runFrom text n s).state := by
  refine runFrom_rule (fun l _ _ => Action.sample ∉ l) (fun r => r = .ended r.state) (fun _ _ _ => rfl) ?_ text n s h
  intro a rest n u hmem k hk
  have hrest : Action.sample ∉ rest := fun hs => hmem (.tail _ hs)
  cases a with
  | readT => rw [perform]; exact State.await_ended fun _ _ => hk _ hrest
  | write f c => rw [perform]; exact State.await_ended fun _ _ => hk _ hrest
  | get f => rw [perform]; exact State.await_ended fun _ _ => rfl
  | cacheRange g => exact hk _ hrest
  | markInited => exact hk _ hrest
  | sample => exact absurd (.head _) hmem

/-- A getter ends in a completion with its code, or with RSVD_CODE. -/
theorem State.getterEnd_cases (s : State) (f : Field) (c : Code) :
    (valid f c = true ∧ s.getterEnd f c = s.respond 0#3 0#2 (resOfCode c) true) ∨
    (valid f c = false ∧ s.getterEnd f c = s.respond 5#3 0#2 0#17 false) := by
  cases h : valid f c <;> simp [State.getterEnd, h, statusCode]

/-- Every code a getter of rate, mode or mux reads is a member of its enumeration (R135 to R137). -/
theorem valid_extractField {f : Field} (hf : f ≠ .range) (r : Word) : valid f (extractField f r) = true := by
  cases f with
  | rate => rfl
  | mux => rfl
  | range => exact absurd rfl hf
  | mode =>
    rw [extractField_mode]
    generalize r.extractLsb 8 8 = b
    revert b
    decide

/-- Everything the scaling step can do: the converted sample, or the model's stop where there is no scale. -/
theorem State.sampleEnd_cases (s : State) :
    (s.cachedRange = none ∧ s.sampleEnd = .fault .unwrittenRange) ∨
    (∃ g, s.cachedRange = some g ∧ mvq3 s.data g = none ∧ s.sampleEnd = .fault .reservedRange) ∨
    (∃ g n, s.cachedRange = some g ∧ mvq3 s.data g = some n ∧ s.sampleEnd = .next (s.respond 0#3 0#2 n true)) := by
  cases hc : s.cachedRange with
  | none => exact .inl ⟨rfl, by simp [State.sampleEnd, hc]⟩
  | some g =>
    cases hm : mvq3 s.data g with
    | none => exact .inr (.inl ⟨g, rfl, hm, by simp [State.sampleEnd, hc, hm]⟩)
    | some n => exact .inr (.inr ⟨g, n, rfl, hm, by simp [State.sampleEnd, hc, hm]⟩)

/-- What a run answers, where it is a next state: the state it has come to, or that state completed OK with a value. -/
theorem Run.out_next {r : Run} {t : State} (h : r.out = .next t) :
    t = r.state ∨ ∃ n, t = r.state.respond 0#3 0#2 n true := by
  cases r with
  | ended u => cases h; exact .inl rfl
  | sampled u =>
    rw [Run.out_sampled] at h
    rcases u.sampleEnd_cases with ⟨_, h1⟩ | ⟨_, _, _, h1⟩ | ⟨_, n, _, _, h1⟩ <;> rw [h1] at h <;> cases h
    exact .inr ⟨n, rfl⟩

/-- A relation that contains every elementary update of a run, and is reflexive and transitive, contains every run. The
premises about writes, CACHED_RANGE and INITED are asked only for the actions that stand in the text. -/
theorem runFrom_rel (R : State → State → Prop) (hrefl : ∀ a, R a a) (htrans : ∀ a b c, R a b → R b c → R a c)
    (hrequest : ∀ a n r, R a (a.request n r)) (hdrawn : ∀ a, R a a.drawn) (hT : ∀ a v, R a (a.withT v))
    (hsampled : ∀ a v, R a (a.sampled v)) (hrespond : ∀ a st e r v, R a (a.respond st e r v)) (text : List Action)
    (hwritten : ∀ f c, Action.write f c ∈ text → ∀ a v, R a (a.configWritten (insertField f a.t c) v))
    (htorn : ∀ f c, Action.write f c ∈ text → ∀ a v, R a (a.configTorn v))
    (hrange : ∀ g, Action.cacheRange g ∈ text → ∀ a, R a (a.withCachedRange g))
    (hinited : Action.markInited ∈ text → ∀ a, R a (a.withInited true)) (n : Nat) (s : State) :
    R s (runFrom text n s).state := by
  refine runFrom_rule (fun l _ u => R s u ∧ ∀ a ∈ l, a ∈ text) (fun r => R s r.state) ?_ ?_ text n s
    ⟨hrefl s, fun _ ha => ha⟩
  · rintro n u ⟨hu, _⟩
    exact htrans _ _ _ hu (hrespond ..)
  · rintro a rest n u ⟨hu, hmem⟩ k hk
    have ha := hmem a (.head _)
    have hrest : ∀ b ∈ rest, b ∈ text := fun b hb => hmem b (.tail _ hb)
    have hr : R s (u.reach a n) := htrans _ _ _ hu (by
      unfold State.reach
      split
      · exact hrequest ..
      · exact hrefl u)
    generalize u.reach a n = w at hr
    have hd : R s w.drawn := htrans _ _ _ hr (hdrawn w)
    cases a with
    | readT =>
      rcases State.await_cases w (fun _ s1 => s1) (fun v s1 => k (s1.withT (s1.configRead v)))
        with ⟨_, h⟩ | ⟨e, v, _, h⟩ | ⟨v, _, h⟩ <;> rw [perform, h]
      · exact hd
      · exact htrans _ _ _ hd (hrespond ..)
      · exact hk _ ⟨htrans _ _ _ hd (hT ..), hrest⟩
    | write f c =>
      rcases State.await_cases w (fun v s1 => s1.configTorn v)
        (fun v s1 => k (s1.configWritten (insertField f s1.t c) v))
        with ⟨_, h⟩ | ⟨e, v, _, h⟩ | ⟨v, _, h⟩ <;> rw [perform, h]
      · exact hd
      · exact htrans _ _ _ hd (htrans _ _ _ (htorn f c ha ..) (hrespond ..))
      · exact hk _ ⟨htrans _ _ _ hd (hwritten f c ha ..), hrest⟩
    | cacheRange g => exact hk _ ⟨htrans _ _ _ hr (hrange g ha w), hrest⟩
    | markInited => exact hk _ ⟨htrans _ _ _ hr (hinited ha w), hrest⟩
    | get f =>
      rcases State.await_cases w (fun _ s1 => s1)
        (fun v s1 => .ended (s1.getterEnd f (extractField f (s1.configRead v))))
        with ⟨_, h⟩ | ⟨e, v, _, h⟩ | ⟨v, _, h⟩ <;> rw [perform, h]
      · exact hd
      · exact htrans _ _ _ hd (hrespond ..)
      · refine htrans _ _ _ hd ?_
        rcases State.getterEnd_cases w.drawn f (extractField f (w.drawn.configRead v)) with ⟨_, h⟩ | ⟨_, h⟩ <;>
          rw [Run.state_ended, h] <;> exact hrespond ..
    | sample =>
      rcases State.await_cases w (fun _ s1 => s1) (fun v s1 => .sampled (s1.sampled v))
        with ⟨_, h⟩ | ⟨e, v, _, h⟩ | ⟨v, _, h⟩ <;> rw [perform, h]
      · exact hd
      · exact htrans _ _ _ hd (hrespond ..)
      · exact htrans _ _ _ hd (hsampled ..)

end Sys2Proof.Machine
end

