-- ==== Sys2Proof/Laws/PerInstr.lean ====
section
/-! SUPPORT. The per-instruction family EncodeRow: the word of every command stands in its own row of the opcode map. -/

namespace Sys2Proof.Laws.EncodeRow

/-- The word of a command has Z = 0, hits its own row of the opcode map, and carries an ARG other than 0 only where the
command takes an operand (R74, R75, R77). -/
def Statement (i : Instr) : Prop :=
  wordZ (encode i) = 0#1 ∧ (opcodeRow (encode i)).map OpcodeRow.mnemonic = some i.mnemonic ∧
    (wordArg (encode i) ≠ 0#3 → i.mnemonic.takesOperand = true)

theorem init : Statement .init := by unfold Statement; decide

theorem setrate (r : Code) : Statement (.setrate r) := by revert r; unfold Statement; decide

theorem setmode (m : Code) : Statement (.setmode m) := by revert m; unfold Statement; decide

theorem setmux (x : Code) : Statement (.setmux x) := by revert x; unfold Statement; decide

theorem setrange (g : Code) : Statement (.setrange g) := by revert g; unfold Statement; decide

theorem getrate : Statement .getrate := by unfold Statement; decide

theorem getmode : Statement .getmode := by unfold Statement; decide

theorem getmux : Statement .getmux := by unfold Statement; decide

theorem getrange : Statement .getrange := by unfold Statement; decide

theorem readv : Statement .readv := by unfold Statement; decide

theorem readvch (k : Code) : Statement (.readvch k) := by revert k; unfold Statement; decide

theorem setch (k : Code) : Statement (.setch k) := by revert k; unfold Statement; decide

end Sys2Proof.Laws.EncodeRow
end

