-- ==== Sys2Proof/Laws/Step.lean ====
section
/-! SUPPORT. What a command and a step can do, said once: which of its checks a command meets, the text it then runs,
and the branches of a step. -/

namespace Sys2Proof.Machine

/-- The state in which an accepted command that has passed its checks starts its text: BUSY and CMDR written, and for
INIT the flag INITED cleared (R130, R160). -/
def State.started (s : State) (i : Instr) : State :=
  match i with
  | .init => (s.accept (encode .init)).withInited false
  | .setrate _ | .setmode _ | .setmux _ | .setrange _ | .getrate | .getmode | .getmux | .getrange | .readv | .readvch _
  | .setch _ => s.accept (encode i)

/-- A command that changes nothing before its first transaction but BUSY and CMDR: all but INIT. -/
theorem State.started_of_ne {i : Instr} (h : i ≠ .init) (s : State) : s.started i = s.accept (encode i) := by
  cases i <;> first | rfl | exact absurd rfl h

/-- A command passes the checks before its first transaction: its operand, and INITED for a voltage read (R78, R204). -/
def State.Admits (s : State) (i : Instr) : Prop :=
  i.inDomain = true ∧ ((i = .readv ∨ ∃ k, i = .readvch k) → s.inited = true)

/-- An operand outside its enumeration: CFG_ERR before any transaction (R202). -/
theorem exec_operand {i : Instr} {s : State} (hb : s.busy = false) (hd : i.inDomain = false) :
    exec i s = .next ((s.accept (encode i)).reject .cfgErr) := by
  cases i with
  | setmode m =>
    have : ¬ m.toNat ≤ 1 := by simpa [Instr.inDomain] using hd
    simp [exec, execSetmode, State.command, hb, valid, this]
  | setrange g =>
    have : ¬ g.toNat ≤ 5 := by simpa [Instr.inDomain] using hd
    simp [exec, execSetrange, State.command, hb, valid, this]
  | setch k =>
    have : ¬ k.toNat ≤ 3 := by simpa [Instr.inDomain] using hd
    simp [exec, execSetch, State.command, hb, validChannel, this]
  | readvch k =>
    have : ¬ k.toNat ≤ 3 := by simpa [Instr.inDomain] using hd
    simp [exec, execReadvch, State.command, hb, validChannel, this]
  | init => cases hd
  | setrate r => cases hd
  | setmux x => cases hd
  | getrate => cases hd
  | getmode => cases hd
  | getmux => cases hd
  | getrange => cases hd
  | readv => cases hd

/-- A voltage read while INITED = 0: NOT_INIT before any transaction (R204). -/
theorem exec_not_inited {i : Instr} {s : State} (hb : s.busy = false) (hd : i.inDomain = true)
    (hv : i = .readv ∨ ∃ k, i = .readvch k) (hi : s.inited = false) :
    exec i s = .next ((s.accept (encode i)).reject .notInit) := by
  obtain rfl | ⟨k, rfl⟩ := hv
  · simp [exec, execReadv, State.command, hb, hi]
  · have : k.toNat ≤ 3 := by simpa [Instr.inDomain] using hd
    simp [exec, execReadvch, State.command, hb, hi, validChannel, this]

/-- The texts of the commands that read no voltage have no read of DATA. -/
theorem sample_not_mem_textOf {i : Instr} (h : ¬ (i = .readv ∨ ∃ k, i = .readvch k)) : Action.sample ∉ textOf i := by
  cases i with
  | readv => exact absurd (.inl rfl) h
  | readvch k => exact absurd (.inr ⟨k, rfl⟩) h
  | init => decide
  | setrate r => simp [textOf, textSetrate, rmw]
  | setmode m => simp [textOf, textSetmode, rmw]
  | setmux x => simp [textOf, textSetmux, rmw]
  | setrange g => simp [textOf, textSetrange, rmw]
  | setch k => simp [textOf, textSetch, rmw]
  | getrate => decide
  | getmode => decide
  | getmux => decide
  | getrange => decide

/-- A command that reads no voltage and passes its checks answers the state its text comes to (R130). -/
theorem exec_state {i : Instr} {s : State} (hb : s.busy = false) (hd : i.inDomain = true)
    (hv : ¬ (i = .readv ∨ ∃ k, i = .readvch k)) : exec i s = .next (runFrom (textOf i) 1 (s.started i)).state := by
  cases i with
  | readv => exact absurd (.inl rfl) hv
  | readvch k => exact absurd (.inr ⟨k, rfl⟩) hv
  | init => simp [exec, execInit, State.command, State.started, textOf, hb]
  | setrate r => simp [exec, execSetrate, State.command, State.started, textOf, hb]
  | setmux x => simp [exec, execSetmux, State.command, State.started, textOf, hb]
  | getrate => simp [exec, execGetrate, State.command, State.started, textOf, hb]
  | getmode => simp [exec, execGetmode, State.command, State.started, textOf, hb]
  | getmux => simp [exec, execGetmux, State.command, State.started, textOf, hb]
  | getrange => simp [exec, execGetrange, State.command, State.started, textOf, hb]
  | setmode m =>
    have : m.toNat ≤ 1 := by simpa [Instr.inDomain] using hd
    simp [exec, execSetmode, State.command, State.started, textOf, hb, valid, this]
  | setrange g =>
    have : g.toNat ≤ 5 := by simpa [Instr.inDomain] using hd
    simp [exec, execSetrange, State.command, State.started, textOf, hb, valid, this]
  | setch k =>
    have : k.toNat ≤ 3 := by simpa [Instr.inDomain] using hd
    simp [exec, execSetch, State.command, State.started, textOf, hb, validChannel, this]

/-- A command that passes its checks runs its text (R130). -/
theorem exec_runs {i : Instr} {s : State} (hb : s.busy = false) (ha : s.Admits i) :
    exec i s = (runFrom (textOf i) 1 (s.started i)).out := by
  obtain ⟨hd, hi⟩ := ha
  by_cases hv : i = .readv ∨ ∃ k, i = .readvch k
  · have hi := hi hv
    obtain rfl | ⟨k, rfl⟩ := hv
    · simp [exec, execReadv, State.command, State.started, textOf, hb, hi]
    · have : k.toNat ≤ 3 := by simpa [Instr.inDomain] using hd
      simp [exec, execReadvch, State.command, State.started, textOf, hb, validChannel, this, hi]
  · rw [exec_state hb hd hv, runFrom_ended (sample_not_mem_textOf hv)]
    rfl

/-- Everything a command accepted by an idle block can do: CFG_ERR, NOT_INIT, or its text (R200, R207). -/
theorem exec_cases (i : Instr) {s : State} (hb : s.busy = false) :
    (i.inDomain = false ∧ exec i s = .next ((s.accept (encode i)).reject .cfgErr)) ∨
    (i.inDomain = true ∧ (i = .readv ∨ ∃ k, i = .readvch k) ∧ s.inited = false ∧
      exec i s = .next ((s.accept (encode i)).reject .notInit)) ∨
    (s.Admits i ∧ exec i s = (runFrom (textOf i) 1 (s.started i)).out) := by
  cases hd : i.inDomain with
  | false => exact .inl ⟨rfl, exec_operand hb hd⟩
  | true =>
    by_cases hv : (i = .readv ∨ ∃ k, i = .readvch k) ∧ s.inited = false
    · exact .inr (.inl ⟨rfl, hv.1, hv.2, exec_not_inited hb hd hv.1 hv.2⟩)
    · have ha : s.Admits i := ⟨hd, fun h => by
        cases hi : s.inited with
        | false => exact absurd ⟨h, hi⟩ hv
        | true => rfl⟩
      exact .inr (.inr ⟨ha, exec_runs hb ha⟩)

/-- A command handed to a busy block is refused (R246). -/
theorem exec_busy (i : Instr) {s : State} (hb : s.busy = true) : exec i s = .refused .busy := by
  cases i <;> simp [exec, execInit, execSetrate, execSetmode, execSetmux, execSetrange, execGetrate, execGetmode,
    execGetmux, execGetrange, execReadv, execReadvch, execSetch, State.command, hb]

/-- A step under rst (R240). -/
theorem step_rst {s : State} (h : s.ports.rst = true) : step s = .next s.powerOn := by simp [step, h]

/-- A step of a busy block (R36). -/
theorem step_busy {s : State} (hr : s.ports.rst = false) (hb : s.busy = true) : step s = resume s := by
  simp [step, hr, hb]

/-- A step of an idle block to which nothing is presented (R241). -/
theorem step_idle {s : State} (hr : s.ports.rst = false) (hb : s.busy = false) (hc : s.ports.commands = []) :
    step s = .next s := by simp [step, hr, hb, State.nextCommand, hc]

/-- A step of an idle block that is handed a word (R76, R77). -/
theorem step_accept {s : State} {w : CmdWord} {rest : List CmdWord} (hr : s.ports.rst = false) (hb : s.busy = false)
    (hc : s.ports.commands = w :: rest) :
    step s = match decode w with
      | .command i => exec i { s with ports := { s.ports with commands := rest } }
      | .illegal _ => .next (State.illegalCommand { s with ports := { s.ports with commands := rest } }) := by
  simp only [step, hr, hb, State.nextCommand, hc]
  rfl

end Sys2Proof.Machine
end

