-- ==== Sys2Proof/Tests/Slice0.lean ====
section
/-! SUPPORT. The model's own tests, and for every obligation with hypotheses a state and operands that meet them. Expected
results are the vectors of spec/95_test_vectors.md (named in each test) or follow by hand from the rule named. -/

namespace Sys2Proof.Tests

open Sys2Proof.Machine Sys2Proof.Claims

/-- An idle block with this CFG, CACHED_RANGE and INITED, these settled answers and these words presented. -/
def host (cfg : Word) (cr : Option Code) (inited : Bool) (answers : List BusAnswer) (commands : List CmdWord) : State :=
  { State.reset with
    cfg := cfg
    cachedRange := cr
    inited := inited
    ports := { Ports.reset with answers := answers, commands := commands } }

/-- What a test looks at in the next state; none where there is none. -/
def seen {α : Type} (o : Out) (f : State → α) : Option α :=
  match o with
  | .next t => some (f t)
  | .fault _ => none
  | .refused _ => none

/-- The four response registers (R33 to R35). -/
def response (t : State) : Nat × Nat × Nat × Bool := (t.status.toNat, t.errinfo.toNat, t.res.toNat, t.resValid)

/-- A block busy with SETRATE 4, its write unanswered so far (K1 stopped at its second transaction). -/
def hung (answers : List BusAnswer) : State :=
  { host 0xC0E3#16 (some 0#3) true answers [0xB0#8] with
    busy := true
    cmdr := 0x44#8
    t := 0xC0E3#16
    seq := .trans 2
    ports :=
      { Ports.reset with
        answers := answers, commands := [0xB0#8], requests := [.writeConfig 0xC083#16, .read .config] } }

/-! ## Which lines assemble: an ill-formed line for each check of WellFormed (R84) -/

theorem test_line_without_its_operand : SourceLine.wellFormed ⟨.setrate, none⟩ = false := by decide

theorem test_line_with_an_operand_too_many : SourceLine.wellFormed ⟨.init, some (.number 0)⟩ = false := by decide

theorem test_line_with_number_above_seven : SourceLine.wellFormed ⟨.setrange, some (.number 8)⟩ = false := by decide

theorem test_line_with_a_name_of_another_field :
    SourceLine.wellFormed ⟨.setmode, some (.symbol (.range .fs256))⟩ = false := by decide

theorem test_line_with_a_name_for_a_channel : SourceLine.wellFormed ⟨.setch, some (.symbol (.mux .se0))⟩ = false := by
  decide

theorem test_line_well_formed : SourceLine.wellFormed ⟨.setrange, some (.symbol (.range .fs2048))⟩ = true := by decide

/-- The operands outside their enumeration (R78), and the last ones inside. -/
theorem test_operand_domains :
    [Instr.setmode 2#3, .setrange 6#3, .readvch 4#3, .setch 4#3].all (fun i => !i.inDomain) ∧
      [Instr.setmode 1#3, .setrange 5#3, .readvch 3#3, .setch 3#3].all Instr.inDomain := by decide

/-- R84: a comment, and R84's symbolic names. -/
theorem test_assemble_with_comment : assembleLine "SETMUX DIFF1 ; pair 1".toList = some 0x61#8 := by decide

/-! ## Decoding: words written out bit by bit, CLS SEL Z ARG (R70, R75; vectors of 2.1) -/

theorem test_decode_init : decode 0b00_01_0_000#8 = .command .init := by decide

theorem test_decode_setrate : decode 0b01_00_0_111#8 = .command (.setrate 7#3) := by decide

theorem test_decode_setmode : decode 0b01_01_0_001#8 = .command (.setmode 1#3) := by decide

theorem test_decode_setmux : decode 0b01_10_0_100#8 = .command (.setmux 4#3) := by decide

theorem test_decode_setrange : decode 0b01_11_0_101#8 = .command (.setrange 5#3) := by decide

theorem test_decode_getrate : decode 0b10_00_0_000#8 = .command .getrate := by decide

theorem test_decode_getmode : decode 0b10_01_0_000#8 = .command .getmode := by decide

theorem test_decode_getmux : decode 0b10_10_0_000#8 = .command .getmux := by decide

theorem test_decode_getrange : decode 0b10_11_0_000#8 = .command .getrange := by decide

theorem test_decode_readv : decode 0b11_00_0_000#8 = .command .readv := by decide

theorem test_decode_readvch : decode 0b11_01_0_111#8 = .command (.readvch 7#3) := by decide

theorem test_decode_setch : decode 0b11_10_0_100#8 = .command (.setch 4#3) := by decide

theorem test_decode_illegal :
    [0x00#8, 0x11#8, 0x18#8, 0x20#8, 0x30#8, 0x48#8, 0x81#8, 0xB7#8, 0xC1#8, 0xF0#8, 0xFF#8].all
      (fun w => opcodeRow w == none) ∧ decode 0x18#8 = .illegal .zBit ∧ decode 0xF0#8 = .illegal .convSel := by decide

theorem test_table_word : decodeTableWord 8 0xD2 = some (.readvch 2#3) ∧ decodeTableWord 8 0x11 = none := by decide

/-! ## The datapath (vectors of 2.2 to 2.5) -/

theorem test_insert :
    insertField .rate 0xFFFF#16 0#3 = 0xFF1F#16 ∧ insertField .mux 0x85E3#16 6#3 = 0xE5E3#16 ∧
      insertField .range 0x8583#16 0#3 = 0x8183#16 ∧ insertField .mode 0xC0E3#16 1#3 = 0xC1E3#16 := by decide

theorem test_extract :
    extractField .rate 0x5AA5#16 = 5#3 ∧ extractField .mode 0x8583#16 = 1#3 ∧ extractField .mux 0x64E0#16 = 6#3 ∧
      extractField .range 0x8583#16 = 2#3 := by decide

/-- V1, V7, V19, V25, V26. -/
theorem test_scaling :
    mvq3 0x8000#16 0#3 = some 0x14000#17 ∧ mvq3 0x7FF0#16 0#3 = some 0x0BFE8#17 ∧
      mvq3 0xFFFF#16 5#3 = some 0x1FFFF#17 ∧ mvq3 0xABCD#16 4#3 = some 0x1F578#17 ∧
      mvq3 0x1234#16 1#3 = some 0x01230#17 := by decide

/-- V19: the fraction of a negative result. -/
theorem test_fraction : resMillivolts 0x1FFFF#17 = -1 ∧ resEighths 0x1FFFF#17 = 7 := by decide

/-- R53. -/
theorem test_byte_order : be16Pack 0x0FFC#16 = (0x0F#8, 0xFC#8) ∧ be16Unpack (0x0F#8, 0xFC#8) = 0x0FFC#16 := by decide

/-! ## The commands (vectors of 2.6 to 2.8) -/

/-- K1. -/
theorem test_setrate :
    seen (exec (.setrate 4#3) (host 0xC0E3#16 (some 0#3) true [.ok 0xC0E3#16, .ok 0xC0E3#16] []))
      (fun t => (t.cfg, t.ports.requests, response t)) =
      some (0xC083#16, [.writeConfig 0xC083#16, .read .config], (0, 0, 0, false)) := by decide

/-- K6: the value is already there, and the write is issued all the same. -/
theorem test_setrate_same_value :
    seen (exec (.setrate 7#3) (host 0xC0E3#16 (some 0#3) true [.ok 0xC0E3#16, .ok 0xC0E3#16] []))
      (fun t => (t.cfg, t.ports.requests)) = some (0xC0E3#16, [.writeConfig 0xC0E3#16, .read .config]) := by decide

/-- K2. -/
theorem test_setmode :
    seen (exec (.setmode 1#3) (host 0xC0E3#16 (some 0#3) true [.ok 0xC0E3#16, .ok 0xC0E3#16] []))
      (fun t => (t.cfg, response t)) = some (0xC1E3#16, (0, 0, 0, false)) := by decide

/-- K10. -/
theorem test_setmode_operand :
    seen (exec (.setmode 2#3) (host 0xC0E3#16 (some 0#3) true [] []))
      (fun t => (t.cfg, t.ports.requests, response t)) = some (0xC0E3#16, [], (2, 0, 0, false)) := by decide

/-- K3. -/
theorem test_setmux :
    seen (exec (.setmux 1#3) (host 0xC0E3#16 (some 0#3) true [.ok 0xC0E3#16, .ok 0xC0E3#16] []))
      (fun t => (t.cfg, response t)) = some (0x90E3#16, (0, 0, 0, false)) := by decide

/-- K4. -/
theorem test_setrange :
    seen (exec (.setrange 2#3) (host 0xC0E3#16 (some 0#3) true [.ok 0xC0E3#16, .ok 0xC0E3#16] []))
      (fun t => (t.cfg, t.cachedRange, response t)) = some (0xC4E3#16, some 2#3, (0, 0, 0, false)) := by decide

/-- K8: the write fails; CACHED_RANGE is kept. -/
theorem test_setrange_failed_write :
    seen (exec (.setrange 3#3) (host 0xC0E3#16 (some 0#3) true [.ok 0xC0E3#16, .err .byteCount 0xCCE3#16] []))
      (fun t => (t.cfg, t.cachedRange, response t)) = some (0xCCE3#16, some 0#3, (1, 3, 0, false)) := by decide

/-- K5. -/
theorem test_setch :
    seen (exec (.setch 2#3) (host 0xC4E3#16 (some 2#3) true [.ok 0xC4E3#16, .ok 0xC4E3#16] []))
      (fun t => (t.cfg, response t)) = some (0xE4E3#16, (0, 0, 0, false)) := by decide

/-- K11. -/
theorem test_setch_operand :
    seen (exec (.setch 4#3) (host 0xC0E3#16 (some 0#3) true [] [])) (fun t => (t.cfg, response t)) =
      some (0xC0E3#16, (2, 0, 0, false)) := by decide

/-- The getters on 0x8583, CACHED_RANGE unwritten, before any INIT (R135). -/
theorem test_getrate :
    seen (exec .getrate (host 0x8583#16 none false [.ok 0x8583#16] [])) response = some (0, 0, 4, true) := by decide

/-- R136. -/
theorem test_getmode :
    seen (exec .getmode (host 0x8583#16 none false [.ok 0x8583#16] [])) response = some (0, 0, 1, true) := by decide

/-- R137. -/
theorem test_getmux :
    seen (exec .getmux (host 0xE4E3#16 (some 2#3) true [.ok 0xE4E3#16] [])) response = some (0, 0, 6, true) := by decide

/-- R138. -/
theorem test_getrange :
    seen (exec .getrange (host 0x8583#16 none false [.ok 0x8583#16] [])) response = some (0, 0, 2, true) := by decide

/-- R138: the reserved code 6. -/
theorem test_getrange_reserved :
    seen (exec .getrange (host 0x8D83#16 none false [.ok 0x8D83#16] [])) response = some (5, 0, 0, false) := by decide

/-- R150: 0x0FFC at range 2; and P2, command 2: the most negative result. -/
theorem test_readv :
    seen (exec .readv (host 0xE4E3#16 (some 2#3) true [.ok 0x0FFC#16] []))
      (fun t => (t.data, t.ports.requests, response t)) = some (0x0FFC#16, [.read .data], (0, 0, 0x007F8, true)) ∧
      seen (exec .readv (host 0x40E0#16 (some 0#3) true [.ok 0x8000#16] [])) response =
        some (0, 0, 0x14000, true) := ⟨by decide, by decide⟩

/-- P1, command 4. -/
theorem test_readvch :
    seen (exec (.readvch 2#3) (host 0xE4E3#16 (some 2#3) true [.ok 0xE4E3#16, .ok 0xE4E3#16, .ok 0x0FFC#16] []))
      (fun t => (t.cfg, t.ports.requests, response t)) =
      some (0xE4E3#16, [.read .data, .writeConfig 0xE4E3#16, .read .config], (0, 0, 0x007F8, true)) := by decide

/-- R150, R201: the read of DATA fails, so nothing is scaled, not even where CACHED_RANGE is unwritten. -/
theorem test_readv_failed_read :
    seen (exec .readv (host 0xC0E3#16 none true [.err .ioFault 0#16] [])) (fun t => (t.ports.requests, response t)) =
      some ([.read .data], (1, 2, 0, false)) := by decide

/-- P3, command 5: the read of DATA fails; the mux written before it is kept. -/
theorem test_readvch_failed_read :
    seen (exec (.readvch 1#3) (host 0xC0FF#16 (some 0#3) true [.ok 0xC0FF#16, .ok 0xC0FF#16, .err .ioFault 0#16] []))
      (fun t => (t.cfg, response t)) = some (0xD0FF#16, (1, 2, 0, false)) := by decide

/-- P6: INIT from 0x3A5C with other bits read at every read. -/
theorem test_init :
    seen (exec .init (host 0x3A5C#16 none false [.ok 0x0000#16, .ok 0#16, .ok 0x801F#16, .ok 0#16, .ok 0x0003#16,
      .ok 0#16, .ok 0x8000#16, .ok 0#16] []))
      (fun t => (t.cfg &&& 0x7FE0#16, t.cachedRange, t.inited, t.ports.requests)) =
      some (0x40E0#16, some 0#3, true,
        [.writeConfig 0xC0E0#16, .read .config, .writeConfig 0x4AE3#16, .read .config, .writeConfig 0xBAFF#16,
          .read .config, .writeConfig 0x3AE0#16, .read .config]) := by decide

/-- I11: the fifth transaction fails. -/
theorem test_init_failed_read :
    seen (exec .init (host 0x8583#16 (some 3#3) true [.ok 0x8583#16, .ok 0x8583#16, .ok 0x85E3#16, .ok 0x85E3#16,
      .err .nack 0#16] []))
      (fun t => (t.cfg, t.cachedRange, t.inited, t.status)) = some (0x84E3#16, some 3#3, false, 1#3) := by decide

/-! ## Steps -/

/-- P4, command 6: an illegal word. -/
theorem test_step_illegal_word :
    seen (step (host 0xC0E3#16 (some 0#3) true [] [0x00#8])) (fun t => (t.cfg, t.ports.commands, response t)) =
      some (0xC0E3#16, [], (3, 0, 0, false)) := by decide

/-- R68: no answer to the write of SETRATE 4; then, in a second step, the answer. -/
theorem test_hang_and_late_answer :
    seen (exec (.setrate 4#3) (host 0xC0E3#16 (some 0#3) true [.ok 0xC0E3#16, .silent] []))
      (fun t => (t.busy, t.seq, t.t, t.cfg)) = some (true, .trans 2, 0xC0E3#16, 0xC0E3#16) ∧
      seen (step (hung [.ok 0xC0E3#16])) (fun t => (t.busy, t.cfg, t.ports.commands)) =
        some (false, 0xC083#16, [0xB0#8]) := by decide

/-- R240: rst abandons a running command. -/
theorem test_reset :
    seen (step { hung [] with ports := { (hung []).ports with rst := true } })
      (fun t => (t.busy, t.cachedRange, t.inited, t.ports.responses)) = some (false, none, false, []) := by decide

/-- R242: GETRATE as the first command after reset is accepted; READV ends in NOT_INIT. -/
theorem test_first_command :
    (seen (step (State.reset.withFetchWord 8 0x80)) (fun t => t.cmdr)).isSome = true ∧
      seen (step (State.reset.withFetchWord 8 0xC0)) response = some (4, 0, 0, false) := by
  refine ⟨rfl, by decide⟩

/-! ## Witnesses: for every obligation with hypotheses, a state and operands that meet them, clause by clause -/

/-- K1's block: idle, INITED, CACHED_RANGE 0. -/
def idle (answers : List BusAnswer) : State := host 0xC0E3#16 (some 0#3) true answers []

/-- Before the first INIT. -/
def fresh (answers : List BusAnswer) : State := host 0x8583#16 none false answers []

theorem witness_DecodeAndEncodeAgree : decode 0xE7#8 = .command (.setch 7#3) := by decide

theorem witness_DecoderFollowsTheOpcodeMap :
    decode 0x47#8 = .command (.setrate 7#3) ∧ decode 0x48#8 = .illegal .zBit := by decide

theorem witness_IllegalWordCompletesAtOnce :
    (host 0xC0E3#16 (some 0#3) true [] [0x18#8, 0x80#8]).ports.rst = false ∧
      (host 0xC0E3#16 (some 0#3) true [] [0x18#8, 0x80#8]).busy = false ∧
      (host 0xC0E3#16 (some 0#3) true [] [0x18#8, 0x80#8]).ports.commands = 0x18#8 :: [0x80#8] ∧
      decode 0x18#8 = .illegal .zBit := by decide

theorem witness_InsertExtractLaws :
    Field.mode ≠ .range ∧ (1#3 : Code).toNat < 2 ^ fieldWidth .mode ∧ (7#3 : Code).toNat < 2 ^ fieldWidth .range ∧
      (0#3 : Code).toNat < 2 ^ fieldWidth .mode := by decide

theorem witness_CountHasThreeEqualForms : (0x8000#16).extractLsb 15 4 = (0x800F#16).extractLsb 15 4 := by decide

theorem witness_ConversionIsExact : (5#3 : Code).toNat ≤ 5 ∧ 5 < (6#3 : Code).toNat := by decide

theorem witness_ConverterLaws :
    (0x7FF0#16).extractLsb 15 4 = (0x7FFF#16).extractLsb 15 4 ∧ count 0x8000#16 < count 0x7FF0#16 ∧
      mvq3 0x8000#16 0#3 = some 0x14000#17 ∧ mvq3 0x7FF0#16 0#3 = some 0x0BFE8#17 ∧ 1 ≤ (4#3 : Code).toNat ∧
      (4#3 : Code).toNat ≤ 4 ∧ mvq3 0x8000#16 4#3 = some 0x1F000#17 ∧ mvq3 0x8000#16 (4#3 + 1#3) = some 0x1F800#17 ∧
      (2#3 : Code).toNat ≤ 2 ∧ mvq3 0x8000#16 2#3 = some 0x1C000#17 := by decide

theorem witness_ChannelsMapToMuxCodes : (3#3 : Code).toNat ≤ 3 ∧ (0#3 : Code).toNat ≤ 3 := by decide

/-- The answers of the five outcomes of a read-modify-write. -/
theorem witness_RmwOutcomes :
    (idle [.err .nack 0#16]).busy = false ∧ (idle [.err .nack 0#16]).answerAt 0 = .err .nack 0#16 ∧
      (idle [.silent]).answerAt 0 = .silent ∧ (idle [.ok 3#16, .err .ioFault 0#16]).answerAt 0 = .ok 3#16 ∧
      (idle [.ok 3#16, .err .ioFault 0#16]).answerAt 1 = .err .ioFault 0#16 ∧
      (idle [.ok 3#16, .silent]).answerAt 1 = .silent ∧ (idle [.ok 3#16, .ok 0#16]).answerAt 0 = .ok 3#16 ∧
      (idle [.ok 3#16, .ok 0#16]).answerAt 1 = .ok 0#16 := by decide

theorem witness_SetrateWritesTheRateField :
    (fresh [.ok 3#16, .ok 0#16]).busy = false ∧ (fresh [.ok 3#16, .ok 0#16]).answerAt 0 = .ok 3#16 ∧
      (fresh [.ok 3#16, .ok 0#16]).answerAt 1 = .ok 0#16 := by decide

theorem witness_SetmodeWritesTheModeField :
    (idle [.ok 3#16, .ok 0#16]).busy = false ∧ (1#3 : Code).toNat ≤ 1 ∧ 1 < (2#3 : Code).toNat ∧
      (idle [.ok 3#16, .ok 0#16]).answerAt 0 = .ok 3#16 ∧ (idle [.ok 3#16, .ok 0#16]).answerAt 1 = .ok 0#16 := by decide

theorem witness_SetmuxWritesTheMuxField :
    (idle [.ok 3#16, .ok 0#16]).busy = false ∧ (idle [.ok 3#16, .ok 0#16]).answerAt 0 = .ok 3#16 ∧
      (idle [.ok 3#16, .ok 0#16]).answerAt 1 = .ok 0#16 := by decide

theorem witness_SetrangeWritesFieldThenShadow :
    (idle [.ok 3#16, .ok 0#16]).busy = false ∧ (5#3 : Code).toNat ≤ 5 ∧ 5 < (6#3 : Code).toNat ∧
      (idle [.ok 3#16, .ok 0#16]).answerAt 0 = .ok 3#16 ∧ (idle [.ok 3#16, .ok 0#16]).answerAt 1 = .ok 0#16 := by decide

theorem witness_SetchWritesFourPlusChannel :
    (idle [.ok 3#16, .ok 0#16]).busy = false ∧ (3#3 : Code).toNat ≤ 3 ∧ 3 < (4#3 : Code).toNat ∧
      (seen (exec (.setch 3#3) (idle [.ok 3#16, .ok 0#16])) State.busy).isSome = true ∧
      (seen (exec (.setmux (4#3 + 3#3)) (idle [.ok 3#16, .ok 0#16])) State.busy).isSome = true := by decide

theorem witness_GettersReturnTheirField :
    (fresh [.ok 0#16]).busy = false ∧ (fresh [.ok 0#16]).answerAt 0 = .ok 0#16 ∧
      (fresh [.err .nack 0#16]).answerAt 0 = .err .nack 0#16 ∧ (fresh [.silent]).answerAt 0 = .silent := by decide

/-- The two clauses of a successful GETRANGE, at range codes 5 and 6. -/
theorem witness_GetrangeRefusesReservedCodes :
    (host 0x0A00#16 none false [.ok 0#16] []).busy = false ∧
      ((host 0x0A00#16 none false [.ok 0#16] []).cfg.extractLsb 11 9).toNat = 5 ∧
      ((host 0x0C00#16 none false [.ok 0#16] []).cfg.extractLsb 11 9).toNat = 6 ∧
      (host 0x0C00#16 none false [.ok 0#16] []).answerAt 0 = .ok 0#16 := by decide

theorem witness_SetThenGetRoundTrip :
    ∃ s t u v w, s.busy = false ∧ exec (setCommand .range 5#3) s = .next t ∧ t.busy = false ∧ t.status = 0#3 ∧
      RunsGetters [.mux] t u ∧ exec (getCommand .range) u = .next v ∧ v.busy = false ∧ v.status ≠ 1#3 ∧
      s.answerAt 0 = .ok 3#16 ∧ exec (getCommand .mode) s = .next w ∧ Field.mode ≠ .range :=
  ⟨idle [.ok 3#16, .ok 0#16, .ok 0#16, .ok 0#16], _, _, _, _, rfl, rfl, by decide, by decide, ⟨_, rfl, by decide, rfl⟩,
    rfl, by decide, by decide, by decide, rfl, by decide⟩

theorem witness_SetThenGetRoundTrip_channel :
    ∃ s t v, s.busy = false ∧ exec (.setch 3#3) s = .next t ∧ t.busy = false ∧ t.status = 0#3 ∧ RunsGetters [] t t ∧
      exec .getmux t = .next v ∧ v.busy = false ∧ v.status ≠ 1#3 :=
  ⟨idle [.ok 3#16, .ok 0#16, .ok 0#16], _, _, rfl, rfl, by decide, by decide, rfl, rfl, by decide, by decide⟩

theorem witness_ReadvScalesByTheCachedRange :
    (idle [.ok 0x8000#16]).busy = false ∧ (fresh []).inited = false ∧ (fresh []).busy = false ∧
      (host 0#16 (some 5#3) true [.ok 0x8000#16] []).inited = true ∧
      (host 0#16 (some 5#3) true [.ok 0x8000#16] []).cachedRange = some 5#3 ∧ (5#3 : Code).toNat ≤ 5 ∧
      (idle [.ok 0x8000#16]).answerAt 0 = .ok 0x8000#16 ∧ (idle [.err .nack 0#16]).answerAt 0 = .err .nack 0#16 ∧
      (idle [.silent]).answerAt 0 = .silent := by decide

theorem witness_ReadvchSelectsThenScales :
    3 < (4#3 : Code).toNat ∧ (3#3 : Code).toNat ≤ 3 ∧ (fresh []).inited = false ∧
      (idle [.ok 0#16, .ok 0#16, .ok 0x7FF0#16]).busy = false ∧
      (idle [.ok 0#16, .ok 0#16, .ok 0x7FF0#16]).inited = true ∧
      (idle [.ok 0#16, .ok 0#16, .ok 0x7FF0#16]).cachedRange = some 0#3 ∧
      (idle [.ok 0#16, .ok 0#16, .ok 0x7FF0#16]).answerAt 2 = .ok 0x7FF0#16 ∧
      (idle [.ok 0#16, .ok 0#16, .err .byteCount 0#16]).answerAt 2 = .err .byteCount 0#16 ∧
      (idle [.ok 0#16, .ok 0#16, .silent]).answerAt 2 = .silent ∧
      (idle [.ok 0#16, .err .nack 9#16]).answerAt 1 = .err .nack 9#16 ∧
      (idle [.ok 0#16, .silent]).answerAt 1 = .silent := by decide

theorem witness_VoltageReadLeavesTheSampleInData :
    (idle [.ok 0#16, .ok 0#16, .ok 0x7FF0#16]).busy = false ∧ (idle [.ok 0#16, .ok 0#16, .ok 0x7FF0#16]).inited = true ∧
      (idle [.ok 0#16, .ok 0#16, .ok 0x7FF0#16]).cachedRange = some 0#3 ∧ (3#3 : Code).toNat ≤ 3 ∧
      (idle [.ok 0#16, .ok 0#16, .ok 0x7FF0#16]).answerAt 0 = .ok 0#16 ∧
      (idle [.ok 0#16, .ok 0#16, .ok 0x7FF0#16]).answerAt 1 = .ok 0#16 ∧
      (idle [.ok 0#16, .ok 0#16, .ok 0x7FF0#16]).answerAt 2 = .ok 0x7FF0#16 := by decide

/-- CACHED_RANGE unwritten, and at the first reserved code. -/
theorem witness_VoltageReadWithoutScaleStops :
    (host 0#16 none true [.ok 1#16, .ok 2#16, .ok 3#16] []).busy = false ∧
      (host 0#16 none true [.ok 1#16, .ok 2#16, .ok 3#16] []).inited = true ∧
      (host 0#16 none true [.ok 1#16, .ok 2#16, .ok 3#16] []).cachedRange = none ∧
      (host 0#16 (some 6#3) true [.ok 1#16, .ok 2#16, .ok 3#16] []).cachedRange = some 6#3 ∧ 5 < (6#3 : Code).toNat ∧
      (3#3 : Code).toNat ≤ 3 ∧ (host 0#16 none true [.ok 1#16, .ok 2#16, .ok 3#16] []).answerAt 0 = .ok 1#16 ∧
      (host 0#16 none true [.ok 1#16, .ok 2#16, .ok 3#16] []).answerAt 1 = .ok 2#16 ∧
      (host 0#16 none true [.ok 1#16, .ok 2#16, .ok 3#16] []).answerAt 2 = .ok 3#16 := by decide

theorem witness_ReadvchIsSetchThenReadv :
    ∃ s t u, s.busy = false ∧ s.inited = true ∧ exec (.readvch 3#3) s = .next t ∧
      exec (.setch 3#3) s = .next u ∧ u.busy = false ∧ u.status = 0#3 :=
  ⟨idle [.ok 0#16, .ok 0#16, .ok 0x7FF0#16], _, _, by decide, by decide, rfl, rfl, by decide, by decide⟩

theorem witness_ReadvchIsSetchThenReadv_fault :
    ∃ s t u, s.busy = false ∧ s.inited = true ∧ exec (.readvch 3#3) s = .next t ∧
      exec (.setch 3#3) s = .next u ∧ u.busy = false ∧ u.status ≠ 0#3 :=
  ⟨idle [.ok 0#16, .err .nack 0#16], _, _, by decide, by decide, rfl, rfl, by decide, by decide⟩

/-- The two reads differ in CFG, in the padding of the sample and in the channel. -/
theorem witness_VoltageDependsOnTheSampleOnly :
    ∃ s u t v t' v', s.busy = false ∧ u.busy = false ∧ s.inited = true ∧ u.inited = true ∧
      s.cachedRange = u.cachedRange ∧ (0x0FF0#16).extractLsb 15 4 = (0x0FFC#16).extractLsb 15 4 ∧
      s.answerAt 0 = .ok 0x0FF0#16 ∧ u.answerAt 0 = .ok 0x0FFC#16 ∧ s.answerAt 1 = .ok 0#16 ∧
      u.answerAt 1 = .ok 0#16 ∧ s.answerAt 2 = .ok 0x0FF0#16 ∧ u.answerAt 2 = .ok 0x0FFC#16 ∧
      exec .readv s = .next t ∧ exec .readv u = .next v ∧ exec (.readvch 0#3) s = .next t' ∧
      exec (.readvch 3#3) u = .next v' :=
  ⟨host 0xC0E3#16 (some 2#3) true [.ok 0x0FF0#16, .ok 0#16, .ok 0x0FF0#16] [],
    host 0x1B80#16 (some 2#3) true [.ok 0x0FFC#16, .ok 0#16, .ok 0x0FFC#16] [], _, _, _, _, by decide, by decide,
    by decide, by decide, by decide, by decide, by decide, by decide, by decide, by decide, by decide, by decide, rfl, rfl,
    rfl, rfl⟩

/-- Eight successful answers to INIT. -/
def eightOk : List BusAnswer := [.ok 0#16, .ok 1#16, .ok 2#16, .ok 3#16, .ok 4#16, .ok 5#16, .ok 6#16, .ok 7#16]

theorem witness_InitSetsTheDefaults :
    (fresh eightOk).busy = false ∧ ∀ k, k < 8 → (fresh eightOk).answerAt k = .ok (BitVec.ofNat 16 k) := by decide

/-- The last transaction fails (I14), and the first (I7). -/
theorem witness_InitStopsAtTheFirstFailure :
    (fresh (eightOk.take 7 ++ [.err .nack 9#16])).busy = false ∧
      (∀ k, k < 7 → (fresh (eightOk.take 7 ++ [.err .nack 9#16])).answerAt k = .ok (BitVec.ofNat 16 k)) ∧
      (fresh (eightOk.take 7 ++ [.err .nack 9#16])).answerAt 7 = .err .nack 9#16 ∧
      (fresh [.err .nack 9#16]).answerAt 0 = .err .nack 9#16 := by decide

/-- The last transaction unanswered, and the first. -/
theorem witness_InitWaitsAtTheFirstSilence :
    (fresh (eightOk.take 7 ++ [.silent])).busy = false ∧
      (∀ k, k < 7 → (fresh (eightOk.take 7 ++ [.silent])).answerAt k = .ok (BitVec.ofNat 16 k)) ∧
      (fresh (eightOk.take 7 ++ [.silent])).answerAt 7 = .silent ∧ (fresh [.silent]).answerAt 0 = .silent := by decide

theorem witness_InitTwiceIsInitOnce :
    ∃ s t u, s.busy = false ∧ exec .init s = .next t ∧ t.busy = false ∧ t.status = 0#3 ∧ exec .init t = .next u ∧
      u.busy = false ∧ u.status = 0#3 :=
  ⟨fresh (eightOk ++ eightOk), _, _, by decide, rfl, by decide, by decide, rfl, by decide, by decide⟩

theorem witness_OperandFaultsBeforeTheBus :
    (idle []).busy = false ∧ Instr.inDomain (.setmode 2#3) = false ∧ Instr.inDomain (.setrange 6#3) = false ∧
      Instr.inDomain (.setch 4#3) = false ∧ Instr.inDomain (.readvch 4#3) = false ∧
      seen (exec (.setrange 7#3) (idle [])) (fun t => (t.busy, t.status)) = some (false, 2#3) := by decide

theorem witness_VoltageReadNeedsInit :
    (fresh []).busy = false ∧ (fresh []).inited = false ∧ (3#3 : Code).toNat ≤ 3 ∧
      seen (exec (.readvch 3#3) (fresh [])) (fun t => (t.busy, t.status)) = some (false, 4#3) := by decide

theorem witness_EachCommandRaisesOnlyItsFaults :
    ∃ t, (idle [.err .nack 0#16]).busy = false ∧ exec .init (idle [.err .nack 0#16]) = .next t ∧ t.busy = false :=
  ⟨_, by decide, rfl, by decide⟩

/-- A command that completes and one that waits. -/
theorem witness_OneResponsePerCompletedCommand :
    ∃ t u, (idle [.ok 0#16]).busy = false ∧ exec .getrate (idle [.ok 0#16]) = .next t ∧ t.busy = false ∧
      exec .getrate (idle [.silent]) = .next u ∧ u.busy = true :=
  ⟨_, _, by decide, rfl, by decide, rfl, by decide⟩

/-- A command that completes OK after eight transactions, one that fails at its first, one that waits there, and one that
is refused. -/
theorem witness_EachTransactionIsIssuedOnce :
    ∃ t u v w, (fresh eightOk).busy = false ∧ exec .init (fresh eightOk) = .next t ∧ t.busy = false ∧ t.status = 0#3 ∧
      exec .init (fresh [.err .nack 0#16]) = .next u ∧ u.busy = false ∧ u.status = 1#3 ∧
      exec .init (fresh [.silent]) = .next v ∧ v.busy = true ∧ exec .readv (fresh []) = .next w ∧ w.busy = false ∧
      w.status = 4#3 :=
  ⟨_, _, _, _, by decide, rfl, by decide, by decide, rfl, by decide, by decide, rfl, by decide, rfl, by decide, by decide⟩

/-- A state in the middle of SETRATE 4 meets the invariant. -/
theorem witness_inv_hung (answers : List BusAnswer) : (hung answers).Inv where
  range_legal g h := by
    obtain rfl : 0#3 = g := Option.some.inj h
    decide
  inited_range _ h := nomatch (show some 0#3 = none from h)
  status_legal := show (0#3).toNat ≤ 5 by decide
  no_result _ := rfl
  result_ok h := nomatch (show false = true from h)
  errinfo_bus := show 0#2 ≠ 0#2 ↔ 0#3 = 1#3 by decide
  idle_iff := show true = false ↔ Seq.trans 2 = .idle by decide
  running _ :=
    ⟨.setrate 4#3, 2, .write .rate 4#3, [], .writeConfig 0xC083#16, [.read .config], show decode 0x44#8 = _ by decide, rfl,
      ⟨by decide, fun _ => rfl, by simp⟩,
      by simp [State.pending, hung, show decode 0x44#8 = .command (.setrate 4#3) by decide, textOf, textSetrate, rmw,
        fromTransaction, isTransaction],
      show some (BusRequest.writeConfig (insertField .rate 0xC0E3#16 4#3)) = _ by decide, rfl, fun _ _ _ => rfl⟩

theorem witness_UnansweredTransactionHangs :
    (hung [.silent]).Inv ∧ (hung [.silent]).ports.rst = false ∧ (hung [.silent]).busy = true ∧
      (hung [.silent]).answerAt 0 = .silent := ⟨witness_inv_hung _, by decide, by decide, by decide⟩

theorem witness_BusyBlockAcceptsNoCommand :
    ∃ t, (hung [.ok 0#16]).busy = true ∧ (hung [.ok 0#16]).ports.rst = false ∧ step (hung [.ok 0#16]) = .next t :=
  ⟨_, by decide, by decide, rfl⟩

theorem witness_LateAnswerChangesNothing :
    ∃ t, (idle []).busy = false ∧ (idle []).ports.rst = false ∧ (∀ a ∈ [BusAnswer.ok 3#16], a ≠ .silent) ∧
      8 ≤ [BusAnswer.ok 3#16].length + eightOk.length ∧
      exec (.setrate 4#3) (withAnswers (idle []) ([.ok 3#16] ++ .silent :: eightOk)) = .next t ∧ t.busy = true :=
  ⟨_, by decide, by decide, by decide, by decide, rfl, by decide⟩

theorem witness_StepRunsTheDecodedCommand :
    (host 0xC0E3#16 (some 0#3) true [] [0xD2#8, 0x80#8]).ports.rst = false ∧
      (host 0xC0E3#16 (some 0#3) true [] [0xD2#8, 0x80#8]).busy = false ∧
      (host 0xC0E3#16 (some 0#3) true [] [0xD2#8, 0x80#8]).ports.commands = 0xD2#8 :: [0x80#8] ∧
      decode 0xD2#8 = .command (.readvch 2#3) := by decide

theorem witness_ResetAbandonsTheCommand :
    ((hung []).withEnvironment true [] []).ports.rst = true ∧ ((hung []).withEnvironment true [] []).busy = true := by
  decide

theorem witness_IdleBlockWaits : (idle []).ports.rst = false ∧ (idle []).Finished := ⟨by decide, by decide, by decide⟩

theorem witness_EveryStepKeepsTheInvariant :
    ∃ t, (hung [.ok 0#16]).Inv ∧ step (hung [.ok 0#16]) = .next t := ⟨_, witness_inv_hung _, rfl⟩

theorem witness_StepNeverStops : (hung []).Inv := witness_inv_hung _

/-- A run from reset that reaches INITED = 1: INIT with eight successful transactions. -/
theorem witness_InitedImpliesLegalCachedRange : ∃ s, Reachable s ∧ s.inited = true :=
  ⟨_, .step _ _ (.environment _ false [0x10#8] eightOk .reset) rfl, rfl⟩

theorem witness_OnlyTheListedCommandsWriteState :
    ∃ t, (hung [.ok 0#16]).Inv ∧ (hung [.ok 0#16]).ports.rst = false ∧ step (hung [.ok 0#16]) = .next t ∧
      t.cfg ≠ (hung [.ok 0#16]).cfg := ⟨_, witness_inv_hung _, by decide, rfl, by decide⟩

theorem witness_ShadowStaysCoherent :
    ∃ t, (hung [.ok 0#16]).Inv ∧ (hung [.ok 0#16]).Coherent ∧ (hung [.ok 0#16]).ports.rst = false ∧
      step (hung [.ok 0#16]) = .next t ∧ t.status ≠ 1#3 := ⟨_, witness_inv_hung _, by unfold State.Coherent; decide, by decide, rfl, by decide⟩

/-- Every answer differs from itself in nothing. -/
theorem alike_self (a : BusAnswer) : BusAnswer.Alike a a := by
  cases a with
  | ok v => exact ⟨v, rfl⟩
  | err e v => exact ⟨v, rfl, rfl⟩
  | silent => rfl

/-- Two blocks whose CFG differs in bit 15 and bits [4:0] only, at a setter; and at READV, with the samples drawn equal. -/
theorem witness_UndescribedBitsNeverMatter :
    ∃ t v, (fresh []).busy = false ∧ (fresh []).Alike { fresh [] with cfg := 0x059C#16, t := 0x801F#16 } ∧
      exec (.setmux 7#3) (fresh []) = .next t ∧ (idle [.ok 5#16]).busy = false ∧
      (idle [.ok 5#16]).Alike { idle [.ok 5#16] with cfg := 0x40FC#16 } ∧ exec .readv (idle [.ok 5#16]) = .next v ∧
      ∀ k d d', (transactionsOf .readv)[k]? = some .readData → (idle [.ok 5#16]).answerAt k = .ok d →
        State.answerAt { idle [.ok 5#16] with cfg := 0x40FC#16 } k = .ok d' → d' = d :=
  ⟨_, _, by decide,
    ⟨by unfold State.SameFields; decide, by decide, rfl, rfl, rfl, rfl, .nil, fun k => alike_self _⟩, rfl, by decide,
    ⟨by unfold State.SameFields; decide, by decide, rfl, rfl, rfl, rfl, .nil, fun k => alike_self _⟩, rfl,
    fun k d d' _ h h' => BusAnswer.ok.inj (h'.symm.trans h)⟩

end Sys2Proof.Tests
end

section
/-! PROOFS. The words of the commands, and the shape of their texts. -/

namespace Sys2Proof.Machine

/-! ## The words of the commands -/

/-- The word of a command decodes to it (R76). -/
theorem decode_encode (i : Instr) : decode (encode i) = .command i := by
  cases i with
  | init | getrate | getmode | getmux | getrange | readv => decide
  | setrate c | setmode c | setmux c | setrange c | readvch c | setch c => revert c; decide

/-- A word that decodes to a command is that command's word: a look at the 256 words (R76). -/
theorem encode_of_decode {w : CmdWord} {i : Instr} (h : decode w = .command i) : encode i = w := by
  have key : ∀ w : CmdWord, (match decode w with
      | .command i => encode i == w
      | .illegal _ => true) = true := by decide
  have hw := key w
  rw [h] at hw
  exact eq_of_beq hw

/-- Different commands have different words. -/
theorem encode_injective : Function.Injective encode := fun i j h => by
  have hij : Decoded.command i = .command j := by rw [← decode_encode i, h, decode_encode j]
  exact Decoded.command.inj hij

/-! ## The texts, written out -/

@[simp] theorem textOf_init : textOf .init =
    [.readT, .write .rate 7#3, .readT, .write .mode 0#3, .readT, .write .mux 4#3, .readT, .write .range 0#3,
      .cacheRange 0#3, .markInited] := rfl
@[simp] theorem textOf_setrate (r : Code) : textOf (.setrate r) = [.readT, .write .rate r] := rfl
@[simp] theorem textOf_setmode (m : Code) : textOf (.setmode m) = [.readT, .write .mode m] := rfl
@[simp] theorem textOf_setmux (x : Code) : textOf (.setmux x) = [.readT, .write .mux x] := rfl
@[simp] theorem textOf_setrange (g : Code) :
    textOf (.setrange g) = [.readT, .write .range g, .cacheRange g] := rfl
@[simp] theorem textOf_getrate : textOf .getrate = [.get .rate] := rfl
@[simp] theorem textOf_getmode : textOf .getmode = [.get .mode] := rfl
@[simp] theorem textOf_getmux : textOf .getmux = [.get .mux] := rfl
@[simp] theorem textOf_getrange : textOf .getrange = [.get .range] := rfl
@[simp] theorem textOf_readv : textOf .readv = [.sample] := rfl
@[simp] theorem textOf_readvch (k : Code) :
    textOf (.readvch k) = [.readT, .write .mux (seEncode k), .sample] := rfl
@[simp] theorem textOf_setch (k : Code) : textOf (.setch k) = [.readT, .write .mux (seEncode k)] := rfl

/-- A command that reads a voltage is READV or READVCH. -/
theorem readsVoltage_iff (i : Instr) : readsVoltage i = true ↔ i = .readv ∨ ∃ k, i = .readvch k := by
  cases i <;> simp [readsVoltage]

/-- A text opens with a read. -/
theorem textOf_head (i : Instr) :
    ∃ a rest, textOf i = a :: rest ∧ (a = .readT ∨ a = .sample ∨ ∃ f, a = .get f) := by
  cases i with
  | init | setrate _ | setmode _ | setmux _ | setrange _ | setch _ | readvch _ => exact ⟨.readT, _, rfl, .inl rfl⟩
  | readv => exact ⟨.sample, _, rfl, .inr (.inl rfl)⟩
  | getrate | getmode | getmux | getrange => exact ⟨_, _, rfl, .inr (.inr ⟨_, rfl⟩)⟩

/-- Only SETRANGE and INIT write CACHED_RANGE (R31). -/
theorem cacheRange_mem_textOf {i : Instr} {g : Code} (h : Action.cacheRange g ∈ textOf i) :
    (i = .init ∧ g = 0#3) ∨ i = .setrange g := by
  cases i with
  | init => exact .inl ⟨rfl, by simpa using h⟩
  | setrange c =>
    obtain rfl : g = c := by simpa using h
    exact .inr rfl
  | setrate _ | setmode _ | setmux _ | getrate | getmode | getmux | getrange | readv | readvch _ | setch _ => simp at h

/-- A command with an operand inside its enumeration writes a legal code to CACHED_RANGE (R134). -/
theorem cacheRange_legal {i : Instr} {g : Code} (h : Action.cacheRange g ∈ textOf i) (hd : i.inDomain = true) :
    g.toNat ≤ 5 := by
  obtain ⟨-, rfl⟩ | rfl := cacheRange_mem_textOf h
  · decide
  · simpa [Instr.inDomain] using hd

/-- Only INIT writes INITED (R32). -/
theorem markInited_mem_textOf {i : Instr} (h : Action.markInited ∈ textOf i) : i = .init := by
  cases i <;> simp at h ⊢

/-- The getters and READV write no field (R38). -/
theorem write_not_mem_textOf {i : Instr} (h : i = .readv ∨ ∃ f, i = getCommand f) (f : Field) (c : Code) :
    Action.write f c ∉ textOf i := by
  obtain rfl | ⟨g, rfl⟩ := h
  · simp
  · cases g <;> simp [getCommand]

/-! ## The order of a text's actions -/

/-- Which action of a text may stand behind which: a write behind the read it modifies (R130), CACHED_RANGE behind the
write of that range (R134), INITED behind CACHED_RANGE (R160), and a read behind another transaction. -/
def Follows (a b : Action) : Prop :=
  match b with
  | .write _ _ => a = .readT
  | .cacheRange g => a = .write .range g
  | .markInited => ∃ g, a = .cacheRange g
  | .readT | .get _ | .sample => isTransaction a = true

/-- In every command's text each action follows the one before it. -/
theorem isChain_textOf (i : Instr) : (textOf i).IsChain Follows := by
  cases i <;> simp [Follows, isTransaction]

/-- Behind the write of INITED nothing is left. -/
theorem nothing_behind_markInited {rest : List Action} (h : (Action.markInited :: rest).IsChain Follows) :
    rest = [] := by
  cases rest with
  | nil => rfl
  | cons b rest => cases b <;> simp [Follows, isTransaction] at h

/-- Behind the write of CACHED_RANGE no transaction is left. -/
theorem no_transaction_behind_cacheRange {g : Code} {rest : List Action}
    (h : (Action.cacheRange g :: rest).IsChain Follows) : ∀ a ∈ rest, isTransaction a = false := by
  cases rest with
  | nil => simp
  | cons b rest =>
    obtain ⟨hb, hrest⟩ := List.isChain_cons_cons.mp h
    cases b with
    | markInited =>
      rw [nothing_behind_markInited hrest]
      simp [isTransaction]
    | readT | get _ | sample => exact absurd hb (by simp [Follows, isTransaction])
    | write _ _ | cacheRange _ => exact absurd hb (by simp [Follows])

/-! ## Transactions of a text by their number -/

/-- An action with a request is a transaction. -/
theorem isTransaction_of_requestOf {a : Action} {s : State} {r : BusRequest} (h : requestOf a s = some r) :
    isTransaction a = true := by
  cases a with
  | readT | write _ _ | get _ | sample => rfl
  | cacheRange _ | markInited => cases h

/-- The request of an action depends on T only. -/
theorem requestOf_congr {s u : State} (h : s.t = u.t) (a : Action) : requestOf a s = requestOf a u := by
  cases a <;> simp [requestOf, h]

/-- A text that opens with a transaction is left whole from its first transaction on. -/
theorem fromTransaction_one_cons {a : Action} (h : isTransaction a = true) (rest : List Action) :
    fromTransaction 1 (a :: rest) = a :: rest := by simp [fromTransaction, h]

/-- An action inside the block is passed over. -/
theorem fromTransaction_cons_of_not {a : Action} (h : isTransaction a = false) (n : Nat) (rest : List Action) :
    fromTransaction n (a :: rest) = fromTransaction n rest := by simp [fromTransaction, h]

/-- Transactions are counted from 1. -/
theorem fromTransaction_zero (l : List Action) : fromTransaction 0 l = [] := by
  induction l with
  | nil => rfl
  | cons a rest ih => simp [fromTransaction, ih]

/-- What is left of a text is its end. -/
theorem fromTransaction_suffix (n : Nat) (l : List Action) : fromTransaction n l <:+ l := by
  induction l generalizing n with
  | nil => exact List.suffix_rfl
  | cons a rest ih =>
    unfold fromTransaction
    split
    · split
      · exact List.suffix_rfl
      · exact (ih _).trans (List.suffix_cons a rest)
    · exact (ih _).trans (List.suffix_cons a rest)

/-- Behind its n-th transaction a text goes on to the next. -/
theorem fromTransaction_succ {n : Nat} {l rest : List Action} {a : Action} (h : fromTransaction n l = a :: rest) :
    fromTransaction (n + 1) l = fromTransaction 1 rest := by
  induction l generalizing n with
  | nil => cases h
  | cons b l ih =>
    cases hb : isTransaction b with
    | false =>
      rw [fromTransaction_cons_of_not hb] at h ⊢
      exact ih h
    | true =>
      match n with
      | 0 => simp [fromTransaction_zero] at h
      | 1 =>
        rw [fromTransaction_one_cons hb] at h
        obtain ⟨rfl, rfl⟩ := List.cons.inj h
        simp [fromTransaction, hb]
      | n + 2 =>
        simp only [fromTransaction, hb, if_true, Nat.add_sub_cancel, Nat.add_eq_right] at h ⊢
        exact ih (by simpa using h)

/-- The sequencer at the n-th transaction of a command: what is left of its text. -/
theorem pending_eq {s : State} {i : Instr} {n : Nat} {a : Action} {rest : List Action} (hseq : s.seq = .trans n)
    (hdec : decode s.cmdr = .command i) :
    s.pending = some (n, a, rest) ↔ fromTransaction n (textOf i) = a :: rest := by
  simp only [State.pending, hseq, hdec]
  cases fromTransaction n (textOf i) with
  | nil => simp
  | cons b l => simp

end Sys2Proof.Machine
end

section
/-! PROOFS. The rule by which a property of every run of a text is proved: what each action, with each answer, does. -/

namespace Sys2Proof.Machine

/-- What an action whose transaction has failed leaves: CFG torn by a write, nothing by a read (R57, R58). -/
def Action.failed (a : Action) (v : Word) (s : State) : State :=
  match a with
  | .write _ _ => s.configTorn v
  | .readT | .get _ | .sample | .cacheRange _ | .markInited => s

/-! ## A run's first transaction, answer by answer -/

/-- Acceptance leaves the coming answers alone. -/
@[simp] theorem State.answerAt_started (s : State) (i : Instr) (k : Nat) : (s.started i).answerAt k = s.answerAt k := by
  cases i <;> rfl

section
variable {s : State}

/-- No answer: the run waits. -/
theorem runFrom_silent {a : Action} {r : BusRequest} (hr : requestOf a s = some r) (h : s.answerAt 0 = .silent)
    (rest : List Action) (n : Nat) : runFrom (a :: rest) n s = .ended (s.request n r).drawn := by
  have hreach : s.reach a n = s.request n r := by rw [State.reach, hr]
  rw [runFrom_cons, hreach]
  cases a with
  | readT | write _ _ | get _ | sample => rw [perform]; exact State.await_silent h
  | cacheRange _ | markInited => cases hr

/-- An error: the run ends in BUS_ERR. -/
theorem runFrom_err {a : Action} {r : BusRequest} {e : BusErr} {v : Word} (hr : requestOf a s = some r)
    (h : s.answerAt 0 = .err e v) (rest : List Action) (n : Nat) :
    runFrom (a :: rest) n s = .ended ((a.failed v (s.request n r).drawn).failBus e) := by
  have hreach : s.reach a n = s.request n r := by rw [State.reach, hr]
  rw [runFrom_cons, hreach]
  cases a with
  | readT | write _ _ | get _ | sample => rw [perform]; exact State.await_err h
  | cacheRange _ | markInited => cases hr

/-- The read of a read-modify-write succeeds: T takes the value. -/
theorem runFrom_readT_ok {v : Word} (h : s.answerAt 0 = .ok v) (rest : List Action) (n : Nat) :
    runFrom (.readT :: rest) n s =
      runFrom rest (n + 1) ((s.request n (.read .config)).drawn.withT (s.configRead v)) := by
  rw [runFrom_cons, perform]
  exact State.await_ok h

/-- A write succeeds: CFG takes the fields. -/
theorem runFrom_write_ok {v : Word} (h : s.answerAt 0 = .ok v) (f : Field) (c : Code) (rest : List Action) (n : Nat) :
    runFrom (.write f c :: rest) n s = runFrom rest (n + 1)
      ((s.request n (.writeConfig (insertField f s.t c))).drawn.configWritten (insertField f s.t c) v) := by
  rw [runFrom_cons, perform]
  exact State.await_ok h

/-- The read of a getter succeeds: the command ends. -/
theorem runFrom_get_ok {v : Word} (h : s.answerAt 0 = .ok v) (f : Field) (rest : List Action) (n : Nat) :
    runFrom (.get f :: rest) n s =
      .ended ((s.request n (.read .config)).drawn.getterEnd f (extractField f (s.configRead v))) := by
  rw [runFrom_cons, perform]
  exact State.await_ok h

/-- The read of DATA succeeds: the run comes to the scaling step. -/
theorem runFrom_sample_ok {v : Word} (h : s.answerAt 0 = .ok v) (rest : List Action) (n : Nat) :
    runFrom (.sample :: rest) n s = .sampled ((s.request n (.read .data)).drawn.sampled v) := by
  rw [runFrom_cons, perform]
  exact State.await_ok h

end

/-! ## The rule -/

/-- P of what is left of a text, of the number of its next transaction and of the state is kept by every action that
succeeds, and gives Q wherever the run can end: the text done, no answer, an error, a getter, a sample. -/
structure RunRule (P : List Action → Nat → State → Prop) (Q : Run → Prop) : Prop where
  done : ∀ {n u}, P [] n u → Q (.ended u.completeOk)
  waits : ∀ {a rest n u r}, P (a :: rest) n u → requestOf a u = some r → u.answerAt 0 = .silent →
    Q (.ended (u.request n r).drawn)
  fails : ∀ {a rest n u r e v}, P (a :: rest) n u → requestOf a u = some r → u.answerAt 0 = .err e v →
    Q (.ended ((a.failed v (u.request n r).drawn).failBus e))
  gets : ∀ {f rest n u v}, P (.get f :: rest) n u → u.answerAt 0 = .ok v →
    Q (.ended ((u.request n (.read .config)).drawn.getterEnd f (extractField f (u.configRead v))))
  samples : ∀ {rest n u v}, P (.sample :: rest) n u → u.answerAt 0 = .ok v →
    Q (.sampled ((u.request n (.read .data)).drawn.sampled v))
  readT : ∀ {rest n u v}, P (.readT :: rest) n u → u.answerAt 0 = .ok v →
    P rest (n + 1) ((u.request n (.read .config)).drawn.withT (u.configRead v))
  write : ∀ {f c rest n u v}, P (.write f c :: rest) n u → u.answerAt 0 = .ok v →
    P rest (n + 1)
      ((u.request n (.writeConfig (insertField f u.t c))).drawn.configWritten (insertField f u.t c) v)
  cacheRange : ∀ {g rest n u}, P (.cacheRange g :: rest) n u → P rest n (u.withCachedRange g)
  markInited : ∀ {rest n u}, P (.markInited :: rest) n u → P rest n (u.withInited true)

/-- Every run of a text obeys the rule. -/
theorem RunRule.run {P : List Action → Nat → State → Prop} {Q : Run → Prop} (h : RunRule P Q) {l : List Action}
    {n : Nat} {s : State} (hs : P l n s) : Q (runFrom l n s) := by
  induction l generalizing n s with
  | nil => exact h.done hs
  | cons a rest ih =>
    cases hr : requestOf a s with
    | none =>
      cases a with
      | cacheRange g => exact ih (h.cacheRange hs)
      | markInited => exact ih (h.markInited hs)
      | readT | write _ _ | get _ | sample => cases hr
    | some r =>
      cases ha : s.answerAt 0 with
      | silent => exact runFrom_silent hr ha rest n ▸ h.waits hs hr ha
      | err e v => exact runFrom_err hr ha rest n ▸ h.fails hs hr ha
      | ok v =>
        cases a with
        | readT => exact runFrom_readT_ok ha rest n ▸ ih (h.readT hs ha)
        | write f c => exact runFrom_write_ok ha f c rest n ▸ ih (h.write hs ha)
        | get f => exact runFrom_get_ok ha f rest n ▸ h.gets hs ha
        | sample => exact runFrom_sample_ok ha rest n ▸ h.samples hs ha
        | cacheRange _ | markInited => cases hr

/-! ## The run of a command that waited -/

/-- The state with its newest request taken back. -/
def State.unasked (s : State) : State := { s with ports := { s.ports with requests := s.ports.requests.tail } }

/-- A transaction's request, taken back and put again. -/
theorem request_unasked {s : State} {n : Nat} {r : BusRequest} {earlier : List BusRequest} (hseq : s.seq = .trans n)
    (hq : s.ports.requests = r :: earlier) : s.unasked.request n r = s := by
  have hports : (s.unasked.request n r).ports = s.ports := by
    apply Ports.ext <;> simp [State.unasked, hq]
  exact State.ext rfl rfl rfl rfl rfl rfl rfl rfl rfl rfl rfl hseq.symm hports

/-- A busy block goes on as a run of what is left of its text that has just come to the pending transaction (R36). -/
theorem resume_eq_runFrom {s : State} {n : Nat} {a : Action} {rest : List Action} {r : BusRequest}
    {earlier : List BusRequest} (hp : s.pending = some (n, a, rest)) (hseq : s.seq = .trans n)
    (hr : requestOf a s = some r) (hq : s.ports.requests = r :: earlier) :
    resume s = (runFrom (a :: rest) n s.unasked).out := by
  have hreach : s.unasked.reach a n = s := by
    have hr' : requestOf a s.unasked = some r := by rw [← hr]; exact requestOf_congr rfl a
    rw [State.reach, hr']
    exact request_unasked hseq hq
  rw [runFrom_cons, hreach, resume, hp]

end Sys2Proof.Machine
end

section
/-! PROOFS. The invariant of the block along a command's run, over a step, and over a run from reset (R31 to R39). -/

namespace Sys2Proof.Machine

/-! ## The parts of the invariant -/

/-- The host-side part of the invariant: CACHED_RANGE is legal once written, and is written while INITED = 1 (R39). -/
structure State.HostLegal (u : State) : Prop where
  range_legal : ∀ g, u.cachedRange = some g → g.toNat ≤ 5
  inited_range : u.inited = true → u.cachedRange ≠ none

/-- The part of the invariant about the response registers (R33 to R35, R81, R82). -/
structure State.ResponseLegal (u : State) : Prop where
  status_legal : u.status.toNat ≤ 5
  no_result : u.resValid = false → u.res = 0#17
  result_ok : u.resValid = true → u.status = 0#3
  errinfo_bus : u.errinfo ≠ 0#2 ↔ u.status = 1#3

/-- The host-side part speaks of CACHED_RANGE and INITED only. -/
theorem State.HostLegal.of_eq {u v : State} (h : u.HostLegal) (hc : v.cachedRange = u.cachedRange)
    (hi : v.inited = u.inited) : v.HostLegal := by
  obtain ⟨h1, h2⟩ := h
  rw [← hc] at h1 h2
  rw [← hi] at h2
  exact ⟨h1, h2⟩

/-- The response part speaks of the response registers only. -/
theorem State.ResponseLegal.of_eq {u v : State} (h : u.ResponseLegal) (hst : v.status = u.status)
    (he : v.errinfo = u.errinfo) (hr : v.res = u.res) (hv : v.resValid = u.resValid) : v.ResponseLegal := by
  obtain ⟨h1, h2, h3, h4⟩ := h
  rw [← hst] at h1 h3 h4
  rw [← hv] at h2 h3
  rw [← hr] at h2
  rw [← he] at h4
  exact ⟨h1, h2, h3, h4⟩

theorem State.Inv.hostLegal {s : State} (h : s.Inv) : s.HostLegal := ⟨h.range_legal, h.inited_range⟩

theorem State.Inv.responseLegal {s : State} (h : s.Inv) : s.ResponseLegal :=
  ⟨h.status_legal, h.no_result, h.result_ok, h.errinfo_bus⟩

/-- While INITED = 1 the block has a scale. -/
theorem State.HostLegal.exists_range {u : State} (h : u.HostLegal) (hi : u.inited = true) :
    ∃ g, u.cachedRange = some g ∧ g.toNat ≤ 5 := by
  cases hc : u.cachedRange with
  | none => exact absurd hc (h.inited_range hi)
  | some g => exact ⟨g, rfl, h.range_legal g hc⟩

/-- An idle block meets the invariant where its host-side state and its response registers do. -/
theorem inv_of_idle {u : State} (hb : u.busy = false) (hseq : u.seq = .idle) (hhost : u.HostLegal)
    (hresp : u.ResponseLegal) : u.Inv where
  range_legal := hhost.range_legal
  inited_range := hhost.inited_range
  status_legal := hresp.status_legal
  no_result := hresp.no_result
  result_ok := hresp.result_ok
  errinfo_bus := hresp.errinfo_bus
  idle_iff := by simp [hb, hseq]
  running h := by simp [hb] at h

/-- A completion with STATUS OK. -/
theorem inv_respond_ok {u : State} (h : u.HostLegal) {r : ResWord} {v : Bool} (hr : v = false → r = 0#17) :
    (u.respond 0#3 0#2 r v).Inv :=
  inv_of_idle rfl rfl (h.of_eq rfl rfl)
    ⟨by simp, hr, fun _ => rfl, by simp⟩

/-- A fault of the transport. -/
theorem inv_failBus {u : State} (h : u.HostLegal) (e : BusErr) : (u.failBus e).Inv :=
  inv_of_idle rfl rfl (h.of_eq rfl rfl)
    ⟨by simp, fun _ => rfl, by simp, by cases e <;> simp [busErrCode]⟩

/-- A fault that is not the transport's. -/
theorem inv_reject {u : State} (h : u.HostLegal) {c : Status} (hc : c ≠ .busErr) : (u.reject c).Inv :=
  inv_of_idle rfl rfl (h.of_eq rfl rfl)
    ⟨by cases c <;> simp [statusCode], fun _ => rfl, by simp, by cases c <;> simp [statusCode] at hc ⊢⟩

/-! ## A command under way -/

/-- What an action leaves for the one behind it: T with the fields of CFG, the field written, a written CACHED_RANGE. -/
def Action.Leaves (a : Action) (u : State) : Prop :=
  match a with
  | .readT => u.t.extractLsb 14 5 = u.cfg.extractLsb 14 5
  | .write f c => f = .range → u.cfg.extractLsb 11 9 = c
  | .cacheRange _ => u.cachedRange ≠ none
  | .get _ | .sample | .markInited => True

/-- What the first action of what is left of a text needs. -/
def State.Ready (u : State) (l : List Action) : Prop :=
  match l with
  | .write _ _ :: _ => u.t.extractLsb 14 5 = u.cfg.extractLsb 14 5
  | .cacheRange g :: _ => u.cfg.extractLsb 11 9 = g
  | .markInited :: _ => u.cachedRange ≠ none
  | [] | .readT :: _ | .get _ :: _ | .sample :: _ => True

/-- What an action leaves is what the next one needs. -/
theorem ready_of_leaves {a : Action} {rest : List Action} {u : State} (hc : (a :: rest).IsChain Follows)
    (h : a.Leaves u) : u.Ready rest := by
  cases rest with
  | nil => trivial
  | cons b rest =>
    have hab : Follows a b := (List.isChain_cons_cons.mp hc).1
    cases b with
    | readT | get _ | sample => trivial
    | write f c =>
      obtain rfl : a = .readT := hab
      exact h
    | cacheRange g =>
      obtain rfl : a = .write .range g := hab
      exact h rfl
    | markInited =>
      obtain ⟨g, rfl⟩ : ∃ g, a = .cacheRange g := hab
      exact h

/-- Command i has come to the state u, with l of its text and the transactions from the n-th on left (R36, R39). -/
structure State.Runs (u : State) (i : Instr) (l : List Action) (n : Nat) : Prop where
  suffix : l <:+ textOf i
  counted : fromTransaction n (textOf i) = fromTransaction 1 l
  ready : u.Ready l
  busy : u.busy = true
  cmdr : u.cmdr = encode i
  domain : i.inDomain = true
  voltage : readsVoltage i = true → u.inited = true
  uninit : i = .init → l ≠ [] → u.inited = false
  host : u.HostLegal
  response : u.ResponseLegal

section
variable {u : State} {i : Instr} {a : Action} {rest : List Action} {n : Nat} {r : BusRequest}

theorem State.Runs.chain {l : List Action} (h : u.Runs i l n) : l.IsChain Follows :=
  (isChain_textOf i).suffix h.suffix

theorem State.Runs.mem (h : u.Runs i (a :: rest) n) : a ∈ textOf i := h.suffix.subset (.head _)

theorem State.Runs.suffix_next (h : u.Runs i (a :: rest) n) : rest <:+ textOf i :=
  (List.suffix_cons a rest).trans h.suffix

/-- At a transaction of the text. -/
theorem State.Runs.counted_cons (h : u.Runs i (a :: rest) n) (ha : isTransaction a = true) :
    fromTransaction n (textOf i) = a :: rest := by rw [h.counted, fromTransaction_one_cons ha]

theorem State.Runs.uninit_cons (h : u.Runs i (a :: rest) n) (hi : i = .init) : u.inited = false :=
  h.uninit hi (List.cons_ne_nil a rest)

/-- A run that waits for an answer meets the invariant. -/
theorem State.Runs.inv_waits (h : u.Runs i (a :: rest) n) (hr : requestOf a u = some r) :
    (u.request n r).drawn.Inv where
  range_legal := h.host.range_legal
  inited_range := h.host.inited_range
  status_legal := h.response.status_legal
  no_result := h.response.no_result
  result_ok := h.response.result_ok
  errinfo_bus := h.response.errinfo_bus
  idle_iff := by simp [h.busy]
  running _ := by
    have hdec : decode (u.request n r).drawn.cmdr = .command i := by simp [h.cmdr, decode_encode]
    refine ⟨i, n, a, rest, r, u.ports.requests, hdec, rfl, ⟨h.domain, h.voltage, h.uninit_cons⟩,
      (pending_eq rfl hdec).mpr (h.counted_cons (isTransaction_of_requestOf hr)), ?_, rfl, ?_⟩
    · rw [← hr]
      exact requestOf_congr rfl a
    · rintro f c rfl
      exact h.ready

/-- What an action in a command's text leaves when it has succeeded is the command under way, one action further. -/
theorem State.Runs.next {v : State} (h : u.Runs i (a :: rest) n) (hleaves : a.Leaves v) (hbusy : v.busy = u.busy)
    (hcmdr : v.cmdr = u.cmdr) (hinited : v.inited = u.inited) (hhost : v.HostLegal) (hresp : v.ResponseLegal) :
    v.Runs i rest (nextSeq a n) where
  suffix := h.suffix_next
  counted := by
    cases ha : isTransaction a with
    | true =>
      rw [nextSeq, ha, if_pos rfl]
      exact fromTransaction_succ (h.counted_cons ha)
    | false => rw [nextSeq, ha, if_neg Bool.false_ne_true, h.counted, fromTransaction_cons_of_not ha]
  ready := ready_of_leaves h.chain hleaves
  busy := hbusy.trans h.busy
  cmdr := hcmdr.trans h.cmdr
  domain := h.domain
  voltage hv := hinited.trans (h.voltage hv)
  uninit hi _ := hinited.trans (h.uninit_cons hi)
  host := hhost
  response := hresp

end

/-- CFG.range after a successful write of the field range (R57, R103). -/
theorem extractLsb_written_range (w v : Word) (c : Code) :
    (mergeFields (insertField .range w c) v).extractLsb 11 9 = c := by
  rw [extractLsb_mergeFields _ _ _ _ (by decide) (by decide) (by decide), ← extractField_range]
  exact extractField_insertField .range w c c.isLt

/-- A run comes to a next state of command i that meets the invariant. -/
def Run.MeetsInv (r : Run) (i : Instr) : Prop := ∃ t, r.out = .next t ∧ t.Inv ∧ t.cmdr = encode i

/-- The scaling step of a command under way finds a scale (R39). -/
theorem State.Runs.meetsInv_sampled {u v : State} {i : Instr} {rest : List Action} {n : Nat}
    (h : u.Runs i (.sample :: rest) n) (hcmdr : v.cmdr = u.cmdr) (hinited : v.inited = u.inited) (hhost : v.HostLegal) :
    (Run.sampled v).MeetsInv i := by
  have hreads : readsVoltage i = true := by
    rw [readsVoltage_iff]
    by_contra hv
    exact sample_not_mem_textOf hv h.mem
  obtain ⟨g, hg, hg5⟩ := hhost.exists_range (hinited.trans (h.voltage hreads))
  obtain ⟨m, hm⟩ := mvq3_legal v.data hg5
  exact ⟨v.respond 0#3 0#2 m true, by simp [State.sampleEnd, hg, hm], inv_respond_ok hhost (by simp),
    hcmdr.trans h.cmdr⟩

/-- Every run of a command under way ends in a state that meets the invariant. -/
theorem runs_rule (i : Instr) : RunRule (fun l n u => u.Runs i l n) (fun r => r.MeetsInv i) where
  done h := ⟨_, rfl, inv_respond_ok h.host fun _ => rfl, h.cmdr⟩
  waits h hr _ := ⟨_, rfl, h.inv_waits hr, h.cmdr⟩
  fails {a _ n u r e v} h _ _ := by
    have hhost : (a.failed v (u.request n r).drawn).HostLegal := by cases a <;> exact h.host.of_eq rfl rfl
    have hcmdr : (a.failed v (u.request n r).drawn).cmdr = u.cmdr := by cases a <;> rfl
    exact ⟨_, rfl, inv_failBus hhost e, hcmdr.trans h.cmdr⟩
  gets {f _ n u v} h _ := by
    have hhost : (u.request n (.read .config)).drawn.HostLegal := h.host.of_eq rfl rfl
    rcases State.getterEnd_cases (u.request n (.read .config)).drawn f (extractField f (u.configRead v))
      with ⟨_, hend⟩ | ⟨_, hend⟩ <;> rw [hend]
    · exact ⟨_, rfl, inv_respond_ok hhost (by simp), h.cmdr⟩
    · exact ⟨_, rfl, inv_reject (c := .rsvdCode) hhost (by decide), h.cmdr⟩
  samples h _ := h.meetsInv_sampled rfl rfl (h.host.of_eq rfl rfl)
  readT {_ _ u v} h _ :=
    h.next (mergeFields_sameFields u.cfg v) rfl rfl rfl (h.host.of_eq rfl rfl) (h.response.of_eq rfl rfl rfl rfl)
  write {f c _ _ u v} h _ :=
    h.next (fun hf => by subst hf; exact extractLsb_written_range u.t v c) rfl rfl rfl
      (h.host.of_eq rfl rfl) (h.response.of_eq rfl rfl rfl rfl)
  cacheRange {g _ _ u} h :=
    h.next (by simp [Action.Leaves]) rfl rfl rfl
      ⟨fun g' hg' => by cases hg'; exact cacheRange_legal h.mem h.domain, by simp⟩
      (h.response.of_eq rfl rfl rfl rfl)
  markInited {rest n u} h := by
    obtain rfl := nothing_behind_markInited h.chain
    exact
      { suffix := h.suffix_next
        counted := h.counted
        ready := trivial
        busy := h.busy
        cmdr := h.cmdr
        domain := h.domain
        voltage := fun _ => rfl
        uninit := fun _ hne => absurd rfl hne
        host := ⟨h.host.range_legal, fun _ => h.ready⟩
        response := h.response.of_eq rfl rfl rfl rfl }

/-! ## The step -/

/-- From s to u nothing has changed that a command writes, but for INITED, which INIT clears first (R160). -/
structure State.Opens (s u : State) (i : Instr) : Prop where
  cfg : u.cfg = s.cfg
  data : u.data = s.data
  cachedRange : u.cachedRange = s.cachedRange
  inited : i ≠ .init → u.inited = s.inited

/-- An accepted command that has passed its checks is under way, its whole text left. -/
theorem runs_started {s : State} {i : Instr} (h : s.Inv) (ha : s.Admits i) : (s.started i).Runs i (textOf i) 1 := by
  obtain ⟨hd, hv⟩ := ha
  have hready : (s.started i).Ready (textOf i) := by
    obtain ⟨a, rest, ht, rfl | rfl | ⟨f, rfl⟩⟩ := textOf_head i <;> rw [ht] <;> trivial
  by_cases hi : i = .init
  · subst hi
    exact
      { suffix := List.suffix_rfl
        counted := rfl
        ready := hready
        busy := rfl
        cmdr := rfl
        domain := hd
        voltage := nofun
        uninit := fun _ _ => rfl
        host := ⟨h.range_legal, nofun⟩
        response := h.responseLegal.of_eq rfl rfl rfl rfl }
  · rw [State.started_of_ne hi] at hready ⊢
    exact
      { suffix := List.suffix_rfl
        counted := rfl
        ready := hready
        busy := rfl
        cmdr := rfl
        domain := hd
        voltage := fun hr => hv ((readsVoltage_iff i).mp hr)
        uninit := fun hi' => absurd hi' hi
        host := h.hostLegal.of_eq rfl rfl
        response := h.responseLegal.of_eq rfl rfl rfl rfl }

/-- Acceptance changes nothing that a command writes, but for INITED at INIT. -/
theorem opens_started (s : State) (i : Instr) : s.Opens (s.started i) i := by
  by_cases hi : i = .init
  · subst hi
    exact ⟨rfl, rfl, rfl, fun h => absurd rfl h⟩
  · rw [State.started_of_ne hi]
    exact ⟨rfl, rfl, rfl, fun _ => rfl⟩

/-- A busy block is at an action of a command under way, and a step runs what is left of its text (R36, R68). -/
theorem runs_resumed {s : State} (h : s.Inv) (hb : s.busy = true) :
    ∃ i l n, s.unasked.Runs i l n ∧ resume s = (runFrom l n s.unasked).out := by
  obtain ⟨i, n, a, rest, r, earlier, hdec, hseq, ⟨hd, hv, hu⟩, hp, hr, hq, hw⟩ := h.running hb
  have hfrom : fromTransaction n (textOf i) = a :: rest := (pending_eq hseq hdec).mp hp
  have ha : isTransaction a = true := isTransaction_of_requestOf hr
  refine ⟨i, a :: rest, n, ?_, resume_eq_runFrom hp hseq hr hq⟩
  exact
    { suffix := hfrom ▸ fromTransaction_suffix n (textOf i)
      counted := by rw [hfrom, fromTransaction_one_cons ha]
      ready := by
        cases a with
        | readT | get _ | sample => trivial
        | write f c => exact hw f c rfl
        | cacheRange _ | markInited => cases ha
      busy := hb
      cmdr := (encode_of_decode hdec).symm
      domain := hd
      voltage := hv
      uninit := fun hi _ => hu hi
      host := h.hostLegal.of_eq rfl rfl
      response := h.responseLegal.of_eq rfl rfl rfl rfl }

/-- Everything a command accepted by an idle block can do: a refusal that changes nothing but the response registers and
the hidden state, or the run of its text (R200, R207). -/
theorem exec_refused_or_runs {s : State} (h : s.Inv) (hb : s.busy = false) (i : Instr) :
    (∃ t, exec i s = .next t ∧ t.Inv ∧ s.Unchanged t) ∨
    (s.started i).Runs i (textOf i) 1 ∧ exec i s = (runFrom (textOf i) 1 (s.started i)).out := by
  have hhost : (s.accept (encode i)).HostLegal := h.hostLegal.of_eq rfl rfl
  rcases exec_cases i hb with ⟨_, he⟩ | ⟨_, _, _, he⟩ | ⟨ha, he⟩
  · exact .inl ⟨_, he, inv_reject hhost (by decide), rfl, rfl, rfl, rfl, rfl⟩
  · exact .inl ⟨_, he, inv_reject hhost (by decide), rfl, rfl, rfl, rfl, rfl⟩
  · exact .inr ⟨runs_started h ha, he⟩

/-- The word the caller presents, taken off the port: the invariant of an idle block stays. -/
theorem inv_handed_over {s : State} (h : s.Inv) (hb : s.busy = false) (rest : List CmdWord) :
    State.Inv { s with ports := { s.ports with commands := rest } } :=
  inv_of_idle hb (h.idle_iff.mp hb) (h.hostLegal.of_eq rfl rfl) (h.responseLegal.of_eq rfl rfl rfl rfl)

/-- Everything a step without rst can do from a state that meets the invariant: an end at once that changes nothing but
the response registers and the hidden state, or the run of a command's text, from its first action or from the pending
one (R36, R40, R246). -/
theorem step_cases {s : State} (h : s.Inv) (hr : s.ports.rst = false) :
    (∃ t, step s = .next t ∧ t.Inv ∧ s.Unchanged t) ∨
    ∃ i l n u, u.Runs i l n ∧ s.Opens u i ∧ step s = (runFrom l n u).out := by
  cases hb : s.busy with
  | true =>
    obtain ⟨i, l, n, hruns, hres⟩ := runs_resumed h hb
    exact .inr ⟨i, l, n, s.unasked, hruns, ⟨rfl, rfl, rfl, fun _ => rfl⟩, (step_busy hr hb).trans hres⟩
  | false =>
    cases hc : s.ports.commands with
    | nil => exact .inl ⟨s, step_idle hr hb hc, h, rfl, rfl, rfl, rfl, rfl⟩
    | cons w rest =>
      have hs := step_accept hr hb hc
      have h1 := inv_handed_over h hb rest
      cases hw : decode w with
      | illegal e =>
        rw [hw] at hs
        exact .inl ⟨_, hs, inv_reject h1.hostLegal (by decide), rfl, rfl, rfl, rfl, rfl⟩
      | command i =>
        rw [hw] at hs
        rcases exec_refused_or_runs h1 hb i with ⟨t, he, ht, hkept⟩ | ⟨hruns, he⟩
        · exact .inl ⟨t, hs.trans he, ht, hkept⟩
        · obtain ⟨hcfg, hdata, hrange, hinit⟩ :=
            opens_started { s with ports := { s.ports with commands := rest } } i
          exact .inr ⟨i, _, 1, _, hruns, ⟨hcfg, hdata, hrange, hinit⟩, hs.trans he⟩

/-- The state after power-on meets the invariant (R241). -/
theorem inv_powerOn (s : State) : s.powerOn.Inv :=
  inv_of_idle rfl rfl ⟨nofun, nofun⟩
    ⟨show (0#3).toNat ≤ 5 by decide, fun _ => rfl, fun _ => rfl, show 0#2 ≠ 0#2 ↔ 0#3 = 1#3 by decide⟩

/-- From a state that meets the invariant a step comes to such a state. -/
theorem step_inv {s : State} (h : s.Inv) : ∃ t, step s = .next t ∧ t.Inv := by
  cases hr : s.ports.rst with
  | true => exact ⟨_, step_rst hr, inv_powerOn s⟩
  | false =>
    rcases step_cases h hr with ⟨t, hs, ht, _⟩ | ⟨i, l, n, u, hruns, _, hs⟩
    · exact ⟨t, hs, ht⟩
    · obtain ⟨t, ht, hinv, _⟩ := (runs_rule i).run hruns
      exact ⟨t, hs.trans ht, hinv⟩

/-- The environment's moves between two steps keep the invariant. -/
theorem inv_withEnvironment {s : State} (h : s.Inv) (rst : Bool) (commands : List CmdWord) (answers : List BusAnswer) :
    (s.withEnvironment rst commands answers).Inv where
  range_legal := h.range_legal
  inited_range := h.inited_range
  status_legal := h.status_legal
  no_result := h.no_result
  result_ok := h.result_ok
  errinfo_bus := h.errinfo_bus
  idle_iff := h.idle_iff
  running hb := by
    obtain ⟨i, n, a, rest, r, earlier, hdec, hseq, hadm, hp, hr, hq, hw⟩ := h.running hb
    exact ⟨i, n, a, rest, r, earlier, hdec, hseq, hadm, hp, (requestOf_congr rfl a).trans hr, hq, hw⟩

/-- Every reachable state meets the invariant. -/
theorem Reachable.inv {s : State} (h : Reachable s) : s.Inv := by
  induction h with
  | reset => exact inv_powerOn State.reset
  | step s t _ hs ih =>
    obtain ⟨t', ht', hinv⟩ := step_inv ih
    cases hs.symm.trans ht'
    exact hinv
  | environment s rst commands answers _ ih => exact inv_withEnvironment ih rst commands answers

end Sys2Proof.Machine

open Sys2Proof Sys2Proof.Machine Sys2Proof.Claims

/-- Settles O46: each branch of a step ends in a state that meets the invariant, a run by the rule of its actions. -/
theorem everyStepKeepsTheInvariant : Obligations.EveryStepKeepsTheInvariant := by
  intro s t h hs
  obtain ⟨t', ht', hinv⟩ := step_inv h
  cases hs.symm.trans ht'
  exact hinv

/-- Settles O47: a run of a command's text ends or waits, and its scaling step finds a legal CACHED_RANGE. -/
theorem stepNeverStops : Obligations.StepNeverStops := by
  intro s h
  obtain ⟨t, ht, _⟩ := step_inv h
  exact ⟨t, ht⟩

/-- Settles O48: INITED and CACHED_RANGE of a reachable state, by the invariant. -/
theorem initedImpliesLegalCachedRange : Obligations.InitedImpliesLegalCachedRange :=
  fun _ h hi => h.inv.hostLegal.exists_range hi

end

section
/-! PROOFS. What a step can write (R31, R32, R38). -/

namespace Sys2Proof.Machine

open Sys2Proof.Claims

/-- From s to t only the listed commands have written: the conclusion of O49. -/
def State.WritesListed (s t : State) : Prop :=
  (t.cachedRange ≠ s.cachedRange → t.busy = false ∧ t.status = 0#3 ∧ t.Coherent ∧
    (t.cmdr = encode .init ∨ ∃ g, t.cmdr = encode (.setrange g))) ∧
  (t.inited ≠ s.inited → t.cmdr = encode .init ∧ (t.inited = true → t.busy = false ∧ t.status = 0#3)) ∧
  (t.cfg ≠ s.cfg → ∀ f, t.cmdr ≠ encode (getCommand f) ∧ t.cmdr ≠ encode .readv) ∧
  (t.data ≠ s.data → t.cmdr = encode .readv ∨ ∃ k, t.cmdr = encode (.readvch k))

/-- From s, command i has come to u with l of its text left, and has written no more than it may: CACHED_RANGE behind
its last transaction only. -/
structure State.Framed (s u : State) (i : Instr) (l : List Action) : Prop where
  range : u.cachedRange = s.cachedRange ∨
    (∀ a ∈ l, isTransaction a = false) ∧ u.Coherent ∧ (i = .init ∨ ∃ g, i = .setrange g)
  inited : i ≠ .init → u.inited = s.inited
  cfg : u.cfg = s.cfg ∨ ∃ f c, .write f c ∈ textOf i
  data : u.data = s.data

/-- Where nothing that a command writes has changed, the rule holds. -/
theorem State.Unchanged.writesListed {s t : State} (h : s.Unchanged t) : s.WritesListed t := by
  obtain ⟨hcfg, -, hdata, hrange, hinited⟩ := h
  exact ⟨fun hne => absurd hrange hne, fun hne => absurd hinited hne, fun hne => absurd hcfg hne,
    fun hne => absurd hdata hne⟩

theorem State.Opens.framed {s u : State} {i : Instr} (h : s.Opens u i) (l : List Action) : s.Framed u i l :=
  ⟨.inl h.cachedRange, h.inited, .inl h.cfg, h.data⟩

section
variable {s u t : State} {i : Instr} {a : Action} {rest : List Action} {n : Nat}

/-- At a transaction CACHED_RANGE is still as it was. -/
theorem State.Framed.range_at_transaction (h : s.Framed u i (a :: rest)) (ha : isTransaction a = true) :
    u.cachedRange = s.cachedRange := by
  rcases h.range with h | ⟨h, _⟩
  · exact h
  · rw [h a (.head _)] at ha
    cases ha

/-- A command whose text writes a field is no getter and not READV. -/
theorem cmdr_ne_of_write (hcmdr : t.cmdr = encode i) (hw : ∃ f c, Action.write f c ∈ textOf i) (f : Field) :
    t.cmdr ≠ encode (getCommand f) ∧ t.cmdr ≠ encode .readv := by
  obtain ⟨g, c, hw⟩ := hw
  rw [hcmdr]
  exact ⟨fun h => write_not_mem_textOf (.inr ⟨f, encode_injective h⟩) g c hw,
    fun h => write_not_mem_textOf (.inl (encode_injective h)) g c hw⟩

/-- The run that ends at a transaction has written what the command may. -/
theorem writesListed_at_transaction (h : u.Runs i (a :: rest) n) (hf : s.Framed u i (a :: rest))
    (ha : isTransaction a = true) (hcmdr : t.cmdr = u.cmdr) (hrange : t.cachedRange = u.cachedRange)
    (hinited : t.inited = u.inited) (hcfg : t.cfg = u.cfg ∨ ∃ f c, a = .write f c)
    (hdata : t.data = u.data ∨ a = .sample) : s.WritesListed t := by
  have hcmdr : t.cmdr = encode i := hcmdr.trans h.cmdr
  refine ⟨fun hne => absurd (hrange.trans (hf.range_at_transaction ha)) hne, fun hne => ?_, fun hne f => ?_,
    fun hne => ?_⟩
  · have hi : i = .init := by
      by_contra hi
      exact hne (hinited.trans (hf.inited hi))
    refine ⟨by rw [hcmdr, hi], fun ht => ?_⟩
    rw [hinited, h.uninit_cons hi] at ht
    cases ht
  · refine cmdr_ne_of_write hcmdr ?_ f
    rcases hcfg with hcfg | ⟨g, c, rfl⟩
    · exact hf.cfg.resolve_left fun hu => hne (hcfg.trans hu)
    · exact ⟨g, c, h.mem⟩
  · obtain rfl : a = .sample := hdata.resolve_left fun hu => hne (hu.trans hf.data)
    have hv : i = .readv ∨ ∃ k, i = .readvch k := by
      by_contra hv
      exact sample_not_mem_textOf hv h.mem
    rw [hcmdr]
    obtain rfl | ⟨k, rfl⟩ := hv
    · exact .inl rfl
    · exact .inr ⟨k, rfl⟩

/-- The run that has done its whole text has written what the command may. -/
theorem writesListed_done (h : u.Runs i [] n) (hf : s.Framed u i []) : s.WritesListed u.completeOk := by
  have hcmdr : u.completeOk.cmdr = encode i := h.cmdr
  refine ⟨fun hne => ?_, fun hne => ?_, fun hne f => ?_, fun hne => absurd hf.data hne⟩
  · obtain ⟨_, hcoh, hi⟩ := hf.range.resolve_left hne
    refine ⟨rfl, rfl, hcoh, ?_⟩
    rw [hcmdr]
    obtain rfl | ⟨g, rfl⟩ := hi
    · exact .inl rfl
    · exact .inr ⟨g, rfl⟩
  · have hi : i = .init := by
      by_contra hi
      exact hne (hf.inited hi)
    exact ⟨by rw [hcmdr, hi], fun _ => ⟨rfl, rfl⟩⟩
  · exact cmdr_ne_of_write hcmdr (hf.cfg.resolve_left hne) f

/-- A transaction that succeeds, and leaves CACHED_RANGE, INITED and DATA alone, keeps the frame. -/
theorem State.Framed.next {v : State} (hf : s.Framed u i (a :: rest)) (ha : isTransaction a = true)
    (hrange : v.cachedRange = u.cachedRange) (hinited : v.inited = u.inited) (hdata : v.data = u.data)
    (hcfg : v.cfg = u.cfg ∨ ∃ f c, .write f c ∈ textOf i) : s.Framed v i rest where
  range := .inl (hrange.trans (hf.range_at_transaction ha))
  inited hi := hinited.trans (hf.inited hi)
  cfg := hcfg.elim (fun hu => hu ▸ hf.cfg) .inr
  data := hdata.trans hf.data

end

/-- Every run of a command under way writes only what the command may. -/
theorem framed_rule (s : State) (i : Instr) :
    RunRule (fun l n u => u.Runs i l n ∧ s.Framed u i l) (fun r => ∀ t, r.out = .next t → s.WritesListed t) where
  done := by
    rintro n u ⟨h, hf⟩ _ ⟨⟩
    exact writesListed_done h hf
  waits := by
    rintro a rest n u r ⟨h, hf⟩ hr _ _ ⟨⟩
    exact writesListed_at_transaction h hf (isTransaction_of_requestOf hr) rfl rfl rfl (.inl rfl) (.inl rfl)
  fails := by
    rintro a rest n u r e v ⟨h, hf⟩ hr _ _ ⟨⟩
    cases a with
    | write f c => exact writesListed_at_transaction h hf rfl rfl rfl rfl (.inr ⟨f, c, rfl⟩) (.inl rfl)
    | readT | get _ | sample => exact writesListed_at_transaction h hf rfl rfl rfl rfl (.inl rfl) (.inl rfl)
    | cacheRange _ | markInited => cases hr
  gets := by
    rintro f rest n u v ⟨h, hf⟩ _ _ ⟨⟩
    rcases State.getterEnd_cases (u.request n (.read .config)).drawn f (extractField f (u.configRead v))
      with ⟨_, hend⟩ | ⟨_, hend⟩ <;> rw [hend] <;>
      exact writesListed_at_transaction h hf rfl rfl rfl rfl (.inl rfl) (.inl rfl)
  samples := by
    rintro rest n u v ⟨h, hf⟩ _ t ht
    obtain rfl | ⟨m, rfl⟩ := Run.out_next ht <;>
      exact writesListed_at_transaction h hf rfl rfl rfl rfl (.inl rfl) (.inr rfl)
  readT h ha := ⟨(runs_rule i).readT h.1 ha, h.2.next rfl rfl rfl rfl (.inl rfl)⟩
  write {f c _ _ _ _} h ha := ⟨(runs_rule i).write h.1 ha, h.2.next rfl rfl rfl rfl (.inr ⟨f, c, h.1.mem⟩)⟩
  cacheRange := by
    rintro g rest n u ⟨h, hf⟩
    refine ⟨(runs_rule i).cacheRange h, ?_, hf.inited, hf.cfg, hf.data⟩
    have hcoh : (u.withCachedRange g).Coherent := congrArg some h.ready.symm
    have hi : i = .init ∨ ∃ g, i = .setrange g := (cacheRange_mem_textOf h.mem).imp And.left fun hi => ⟨g, hi⟩
    exact .inr ⟨no_transaction_behind_cacheRange h.chain, hcoh, hi⟩
  markInited := by
    rintro rest n u ⟨h, hf⟩
    refine ⟨(runs_rule i).markInited h, ?_, fun hi => absurd (markInited_mem_textOf h.mem) hi, hf.cfg, hf.data⟩
    exact hf.range.imp_right fun ⟨hl, hcoh, hi⟩ => ⟨fun a ha => hl a (.tail _ ha), hcoh, hi⟩

end Sys2Proof.Machine

open Sys2Proof Sys2Proof.Machine Sys2Proof.Claims

/-- Settles O49: an end without a run changes nothing, and a run writes what its text allows, CACHED_RANGE behind the
last transaction only. -/
theorem onlyTheListedCommandsWriteState : Obligations.OnlyTheListedCommandsWriteState := by
  intro s t h hr hs
  show s.WritesListed t
  rcases step_cases h hr with ⟨t', hs', _, hkept⟩ | ⟨i, l, n, u, hruns, hopens, hs'⟩
  · cases hs.symm.trans hs'
    exact hkept.writesListed
  · exact (framed_rule s i).run ⟨hruns, hopens.framed l⟩ t (hs'.symm.trans hs)

end

section
/-! PROOFS. The undescribed bits of CFG: two alike states, run side by side (R26, R55). -/

namespace Sys2Proof.Machine

open Sys2Proof.Claims

/-! ## Each update keeps two states alike -/

section
variable {s u : State}

theorem State.Alike.data (h : s.Alike u) : u.data = s.data :=
  (congrArg State.data h.rest :)
theorem State.Alike.cachedRange (h : s.Alike u) : u.cachedRange = s.cachedRange :=
  (congrArg State.cachedRange h.rest :)
theorem State.Alike.inited (h : s.Alike u) : u.inited = s.inited :=
  (congrArg State.inited h.rest :)
theorem State.Alike.busy (h : s.Alike u) : u.busy = s.busy :=
  (congrArg State.busy h.rest :)

theorem State.Alike.respond (h : s.Alike u) (st : BitVec 3) (e : ErrWord) (r : ResWord) (v : Bool) :
    (s.respond st e r v).Alike (u.respond st e r v) :=
  { h with
    rest := congrArg (fun x => x.respond st e r v) h.rest
    responses := congrArg (List.cons _) h.responses }

theorem State.Alike.accept (h : s.Alike u) (w : CmdWord) : (s.accept w).Alike (u.accept w) :=
  { h with rest := congrArg (fun x => x.accept w) h.rest }

theorem State.Alike.withInited (h : s.Alike u) (b : Bool) : (s.withInited b).Alike (u.withInited b) :=
  { h with rest := congrArg (fun x => x.withInited b) h.rest }

theorem State.Alike.withCachedRange (h : s.Alike u) (g : Code) : (s.withCachedRange g).Alike (u.withCachedRange g) :=
  { h with rest := congrArg (fun x => x.withCachedRange g) h.rest }

theorem State.Alike.sampled (h : s.Alike u) (d : Word) : (s.sampled d).Alike (u.sampled d) :=
  { h with rest := congrArg (fun x => x.sampled d) h.rest }

theorem State.Alike.started (h : s.Alike u) (i : Instr) : (s.started i).Alike (u.started i) := by
  by_cases hi : i = .init
  · subst hi
    exact (h.accept _).withInited false
  · rw [State.started_of_ne hi, State.started_of_ne hi]
    exact h.accept _

theorem State.Alike.drawn (h : s.Alike u) : s.drawn.Alike u.drawn :=
  { h with
    rest := congrArg State.drawn h.rest
    answers := fun k => by simpa using h.answers (k + 1) }

theorem State.Alike.request (h : s.Alike u) (n : Nat) {q r : BusRequest} (hq : BusRequest.Alike q r) :
    (s.request n q).Alike (u.request n r) :=
  { h with
    rest := congrArg (fun x => x.request n q) h.rest
    requests := .cons hq h.requests }

theorem State.Alike.withT (h : s.Alike u) {v v' : Word} (hv : v'.extractLsb 14 5 = v.extractLsb 14 5) :
    (s.withT v).Alike (u.withT v') :=
  { h with
    t := hv
    rest := congrArg (fun x => x.withT v) h.rest }

theorem State.Alike.configTorn (h : s.Alike u) {v v' : Word} (hv : v'.extractLsb 14 5 = v.extractLsb 14 5) :
    (s.configTorn v).Alike (u.configTorn v') :=
  { h with
    cfg := hv
    rest := congrArg (fun x => x.configTorn v) h.rest }

theorem State.Alike.configWritten (h : s.Alike u) {w w' : Word} (hw : w'.extractLsb 14 5 = w.extractLsb 14 5)
    (v v' : Word) : (s.configWritten w v).Alike (u.configWritten w' v') :=
  h.configTorn (by rw [mergeFields_sameFields, mergeFields_sameFields, hw])

/-- What a read of CONFIG returns is alike. -/
theorem State.Alike.configRead (h : s.Alike u) (v v' : Word) :
    (u.configRead v').extractLsb 14 5 = (s.configRead v).extractLsb 14 5 := by
  rw [State.configRead, State.configRead, mergeFields_sameFields, mergeFields_sameFields]
  exact h.cfg

/-- The requests of one action are alike. -/
theorem State.Alike.reach (h : s.Alike u) (a : Action) (n : Nat) : (s.reach a n).Alike (u.reach a n) := by
  cases a with
  | readT | get _ => exact h.request n (q := .read .config) rfl
  | sample => exact h.request n (q := .read .data) rfl
  | write f c => exact h.request n (q := .writeConfig _) ⟨_, rfl, insertField_sameFields h.t f c⟩
  | cacheRange _ | markInited => exact h

theorem State.Alike.getterEnd (h : s.Alike u) (f : Field) (c : Code) : (s.getterEnd f c).Alike (u.getterEnd f c) := by
  cases hv : valid f c <;> simp only [State.getterEnd, hv, Bool.false_eq_true, if_false, if_true] <;>
    exact h.respond _ _ _ _

end

/-! ## Two runs side by side -/

/-- Two runs that come to alike states, both to an end or both to a sample. -/
def Run.Alike (r r' : Run) : Prop :=
  match r, r' with
  | .ended s, .ended u => s.Alike u
  | .sampled s, .sampled u => s.Alike u
  | .ended _, .sampled _ | .sampled _, .ended _ => False

/-- Two answers of a command that are alike: alike next states, or the same stop. -/
def OutAlike (o o' : Out) : Prop :=
  (∀ t, o = .next t → ∃ t', o' = .next t' ∧ t.Alike t') ∧ ∀ f, o = .fault f → o' = .fault f

/-- Alike next states are alike answers. -/
theorem outAlike_next {t t' : State} (h : t.Alike t') : OutAlike (.next t) (.next t') :=
  ⟨by rintro _ ⟨⟩; exact ⟨t', rfl, h⟩, nofun⟩

/-- The scaling step sees DATA and CACHED_RANGE only, which alike states share. -/
theorem Run.Alike.out {r r' : Run} (h : r.Alike r') : OutAlike r.out r'.out := by
  match r, r', h with
  | .ended s, .ended u, h => exact outAlike_next h
  | .sampled s, .sampled u, h =>
    rw [Run.out_sampled, Run.out_sampled]
    have hc := State.Alike.cachedRange h
    have hd := State.Alike.data h
    rcases s.sampleEnd_cases with ⟨hs, he⟩ | ⟨g, hs, hm, he⟩ | ⟨g, n, hs, hm, he⟩ <;>
      rw [he, State.sampleEnd, hc, hs]
    · exact ⟨nofun, fun _ => id⟩
    · simp only [hd, hm]
      exact ⟨nofun, fun _ => id⟩
    · simp only [hd, hm]
      exact outAlike_next (State.Alike.respond h _ _ _ _)

/-- Two meetings with alike answers. -/
theorem await_alike {s u : State} (h : s.Alike u) {onErr onErr' : Word → State → State}
    {onOk onOk' : Word → State → Run}
    (herr : ∀ v v', v'.extractLsb 14 5 = v.extractLsb 14 5 → (onErr v s.drawn).Alike (onErr' v' u.drawn))
    (hok : ∀ v v', s.answerAt 0 = .ok v → u.answerAt 0 = .ok v' → (onOk v s.drawn).Alike (onOk' v' u.drawn)) :
    (s.await onErr onOk).Alike (u.await onErr' onOk') := by
  have ha := h.answers 0
  rcases s.await_cases onErr onOk with ⟨hs, he⟩ | ⟨e, v, hs, he⟩ | ⟨v, hs, he⟩ <;> rw [hs] at ha <;> rw [he]
  · rw [State.await_silent ha]
    exact h.drawn
  · obtain ⟨v', hu, hv⟩ := ha
    rw [State.await_err hu]
    exact (herr v v' hv).respond _ _ _ _
  · obtain ⟨v', hu⟩ := ha
    rw [State.await_ok hu]
    exact hok v v' hs hu

/-- The kind of transaction an action is; none inside the block. -/
def Action.transaction (a : Action) : Option Transaction :=
  match a with
  | .readT | .get _ => some .readConfig
  | .write _ _ => some .writeConfig
  | .sample => some .readData
  | .cacheRange _ | .markInited => none

/-- The transactions of a command's text are those its rule lists. -/
theorem transactionsOf_eq (i : Instr) : transactionsOf i = (textOf i).filterMap Action.transaction := by
  cases i <;> rfl

/-- At each read of DATA in a text, the samples the two states will draw are equal. -/
def SamplesAgree (l : List Action) (s u : State) : Prop :=
  ∀ k d d', (l.filterMap Action.transaction)[k]? = some .readData → s.answerAt k = .ok d → u.answerAt k = .ok d' →
    d' = d

/-- Behind a transaction the samples agree with the answers moved on by one. -/
theorem SamplesAgree.next {a : Action} {rest : List Action} {s u s' u' : State} (h : SamplesAgree (a :: rest) s u)
    (ha : isTransaction a = true) (hs : ∀ k, s'.answerAt k = s.answerAt (k + 1))
    (hu : ∀ k, u'.answerAt k = u.answerAt (k + 1)) : SamplesAgree rest s' u' := by
  intro k d d' hk hd hd'
  rw [hs] at hd
  rw [hu] at hd'
  refine h (k + 1) d d' ?_ hd hd'
  cases a with
  | readT | get _ | write _ _ | sample => simpa [Action.transaction] using hk
  | cacheRange _ | markInited => cases ha

theorem SamplesAgree.started {l : List Action} {s u : State} (h : SamplesAgree l s u) (i : Instr) :
    SamplesAgree l (s.started i) (u.started i) := by
  intro k d d' hk hd hd'
  rw [State.answerAt_started] at hd hd'
  exact h k d d' hk hd hd'

/-- A text run from two alike states comes to alike ends. -/
theorem runFrom_alike {l : List Action} {s u : State} (n : Nat) (h : s.Alike u) (hd : SamplesAgree l s u) :
    (runFrom l n s).Alike (runFrom l n u) := by
  induction l generalizing n s u with
  | nil => exact h.respond _ _ _ _
  | cons a rest ih =>
    have hr := h.reach a n
    rw [runFrom_cons, runFrom_cons]
    cases a with
    | readT =>
      rw [perform, perform]
      refine await_alike hr (fun _ _ _ => hr.drawn) fun v v' _ _ => ih _ ?_ (hd.next rfl ?_ ?_)
      · exact hr.drawn.withT (hr.drawn.configRead v v')
      · exact s.answerAt_drawn
      · exact u.answerAt_drawn
    | write f c =>
      rw [perform, perform]
      refine await_alike hr (fun _ _ hv => hr.drawn.configTorn hv) fun v v' _ _ => ih _ ?_ (hd.next rfl ?_ ?_)
      · exact hr.drawn.configWritten (insertField_sameFields h.t f c) v v'
      · exact s.answerAt_drawn
      · exact u.answerAt_drawn
    | get f =>
      rw [perform, perform]
      refine await_alike hr (fun _ _ _ => hr.drawn) fun v v' _ _ => ?_
      rw [extractField_of_sameFields (hr.drawn.configRead v v') f]
      exact hr.drawn.getterEnd f _
    | sample =>
      rw [perform, perform]
      refine await_alike hr (fun _ _ _ => hr.drawn) fun v v' hs hu => ?_
      obtain rfl : v' = v := hd 0 v v' rfl hs hu
      exact hr.drawn.sampled v'
    | cacheRange g => exact ih _ (h.withCachedRange g) hd
    | markInited => exact ih _ (h.withInited true) hd

/-- A command run from two alike states answers alike. -/
theorem exec_alike {i : Instr} {s u : State} (hb : s.busy = false) (h : s.Alike u) (hd : SamplesAgree (textOf i) s u) :
    OutAlike (exec i s) (exec i u) := by
  have hbu : u.busy = false := h.busy.trans hb
  rcases exec_cases i hb with ⟨hi, he⟩ | ⟨hi, hv, hn, he⟩ | ⟨⟨hi, hv⟩, he⟩
  · rw [he, exec_operand hbu hi]
    exact outAlike_next ((h.accept _).respond _ _ _ _)
  · rw [he, exec_not_inited hbu hi hv (h.inited.trans hn)]
    exact outAlike_next ((h.accept _).respond _ _ _ _)
  · rw [he, exec_runs hbu ⟨hi, fun hr => h.inited.trans (hv hr)⟩]
    exact (runFrom_alike 1 (h.started i) (hd.started i)).out

end Sys2Proof.Machine

open Sys2Proof Sys2Proof.Machine Sys2Proof.Claims

/-- Settles O51: run side by side, action by action, two alike states stay alike. -/
theorem undescribedBitsNeverMatter : Obligations.UndescribedBitsNeverMatter := by
  intro i s u hb h hd
  refine exec_alike hb h ?_
  rwa [transactionsOf_eq] at hd

end

section
/-! PROOFS. The scaling step of the voltage reads, and the command an idle step runs (R150, R151, U15, R40). -/

namespace Sys2Proof.Machine

/-- A voltage read has come to its scaling step with the sample d in DATA, and CACHED_RANGE as it was. -/
def State.ReachesScaling (s : State) (d : Word) (u : State) : Prop := u.data = d ∧ u.cachedRange = s.cachedRange

/-- READV whose read succeeds comes to its scaling step (R150). -/
theorem exec_readv_reaches_scaling {s : State} {d : Word} (hb : s.busy = false) (hi : s.inited = true)
    (h0 : s.answerAt 0 = .ok d) : ∃ u, exec .readv s = u.sampleEnd ∧ s.ReachesScaling d u := by
  have ha : s.Admits .readv := ⟨rfl, fun _ => hi⟩
  rw [exec_runs hb ha, textOf_readv, runFrom_sample_ok (v := d) (by simpa using h0), Run.out_sampled]
  exact ⟨_, rfl, rfl, rfl⟩

/-- READVCH of a channel 0 to 3 whose three transactions succeed comes to its scaling step (R151). -/
theorem exec_readvch_reaches_scaling {s : State} {k : Code} {a b d : Word} (hb : s.busy = false) (hi : s.inited = true)
    (hk : k.toNat ≤ 3) (h0 : s.answerAt 0 = .ok a) (h1 : s.answerAt 1 = .ok b) (h2 : s.answerAt 2 = .ok d) :
    ∃ u, exec (.readvch k) s = u.sampleEnd ∧ s.ReachesScaling d u := by
  have ha : s.Admits (.readvch k) := ⟨by simpa [Instr.inDomain] using hk, fun _ => hi⟩
  rw [exec_runs hb ha, State.started_of_ne (by simp), textOf_readvch, runFrom_readT_ok (v := a) (by simpa using h0),
    runFrom_write_ok (v := b) (by simpa using h1), runFrom_sample_ok (v := d) (by simpa using h2), Run.out_sampled]
  exact ⟨_, rfl, rfl, rfl⟩

/-- With a legal CACHED_RANGE the scaling step completes, DATA as it was. -/
theorem State.ReachesScaling.completes {s u : State} {d : Word} {g : Code} (h : s.ReachesScaling d u)
    (hg : s.cachedRange = some g) (hg5 : g.toNat ≤ 5) : ∃ t, u.sampleEnd = .next t ∧ t.data = d := by
  obtain ⟨hd, hc⟩ := h
  obtain ⟨n, hn⟩ := mvq3_legal u.data hg5
  exact ⟨u.completeWith n, by simp [State.sampleEnd, hc, hg, hn], hd⟩

/-- With CACHED_RANGE unwritten the scaling step stops (U15). -/
theorem State.ReachesScaling.unwritten {s u : State} {d : Word} (h : s.ReachesScaling d u) (hc : s.cachedRange = none) :
    u.sampleEnd = .fault .unwrittenRange := by
  simp [State.sampleEnd, h.2.trans hc]

/-- With a reserved code in CACHED_RANGE the scaling step stops (R112). -/
theorem State.ReachesScaling.reserved {s u : State} {d : Word} {g : Code} (h : s.ReachesScaling d u)
    (hg : s.cachedRange = some g) (hg5 : 5 < g.toNat) : u.sampleEnd = .fault .reservedRange := by
  simp [State.sampleEnd, h.2.trans hg, mvq3_reserved u.data hg5]

end Sys2Proof.Machine

open Sys2Proof Sys2Proof.Machine Sys2Proof.Claims

/-- Settles O25: both voltage reads come to their scaling step with the sample in DATA, and it completes. -/
theorem voltageReadLeavesTheSampleInData : Obligations.VoltageReadLeavesTheSampleInData := by
  intro s g d hb hi hg hg5
  constructor
  · intro h0
    obtain ⟨u, he, hu⟩ := exec_readv_reaches_scaling hb hi h0
    rw [he]
    exact hu.completes hg hg5
  · intro k a b hk h0 h1 h2
    obtain ⟨u, he, hu⟩ := exec_readvch_reaches_scaling hb hi hk h0 h1 h2
    rw [he]
    exact hu.completes hg hg5

/-- Settles O26: both voltage reads come to their scaling step, and it stops without a scale. -/
theorem voltageReadWithoutScaleStops : Obligations.VoltageReadWithoutScaleStops := by
  intro s hb hi
  constructor
  · intro d h0
    obtain ⟨u, he, hu⟩ := exec_readv_reaches_scaling hb hi h0
    rw [he]
    exact ⟨hu.unwritten, fun _ => hu.reserved⟩
  · intro k a b d hk h0 h1 h2
    obtain ⟨u, he, hu⟩ := exec_readvch_reaches_scaling hb hi hk h0 h1 h2
    rw [he]
    exact ⟨hu.unwritten, fun _ => hu.reserved⟩

/-- Settles O40: the branch of a step that accepts a word, where the word is a command's. -/
theorem stepRunsTheDecodedCommand : Obligations.StepRunsTheDecodedCommand := by
  intro s w rest i hr hb hc hw
  rw [step_accept hr hb hc, hw]

end

section
/-! PROOFS. The byte order of a transfer, and what a run has asked of the transport (R41, R53, R63, R68). -/

namespace Sys2Proof.Machine

/-! ## The byte order -/

/-- The two bytes of a word, put together, are the word (R53). -/
theorem be16Unpack_be16Pack (v : Word) : be16Unpack (be16Pack v) = v :=
  calc be16Unpack (be16Pack v)
    _ = v.extractLsb' 0 16 := BitVec.extractLsb'_append_extractLsb'_eq_extractLsb' rfl
    _ = v := BitVec.extractLsb'_eq_self

/-- The word of two bytes has them as its bytes (R53). -/
theorem be16Pack_be16Unpack (b0 b1 : BitVec 8) : be16Pack (be16Unpack (b0, b1)) = (b0, b1) :=
  Prod.ext BitVec.extractLsb'_append_eq_left BitVec.extractLsb'_append_eq_right

/-! ## A pending transaction without an answer -/

/-- A busy block whose pending transaction is not answered only counts on (R68, R220). -/
theorem resume_silent {s : State} (h : s.Inv) (hb : s.busy = true) (ha : s.answerAt 0 = .silent) :
    resume s = .next s.drawn := by
  obtain ⟨i, n, a, rest, r, earlier, -, hseq, -, hp, hr, hq, -⟩ := h.running hb
  have hr' : requestOf a s.unasked = some r := (requestOf_congr rfl a).trans hr
  rw [resume_eq_runFrom hp hseq hr hq, runFrom_silent hr' ha, request_unasked hseq hq, Run.out_ended]

/-! ## What acceptance and the scaling step leave -/

/-- An accepted command's word stands in CMDR. -/
@[simp] theorem State.started_cmdr (s : State) (i : Instr) : (s.started i).cmdr = encode i := by
  cases i <;> rfl

/-- An accepted command keeps the block busy. -/
@[simp] theorem State.started_busy (s : State) (i : Instr) : (s.started i).busy = true := by
  cases i <;> rfl

/-- The scaling step, where it answers a next state, completes OK. -/
theorem State.sampleEnd_next {s t : State} (h : s.sampleEnd = .next t) : ∃ n, t = s.respond 0#3 0#2 n true := by
  rcases s.sampleEnd_cases with ⟨_, h1⟩ | ⟨_, _, _, h1⟩ | ⟨_, n, _, _, h1⟩ <;> rw [h1] at h <;> cases h
  exact ⟨n, rfl⟩

/-! ## The requests of a run -/

section
variable {s u v : State} {requests : List BusRequest}

/-- What has been issued shows in the ports only, the responses apart. -/
theorem State.Issued.of_ports (h : s.Issued u requests)
    (hp : v.ports = { u.ports with responses := v.ports.responses }) : s.Issued v requests := by
  unfold State.Issued at h ⊢
  rw [hp]
  exact h

/-- Acceptance issues nothing. -/
theorem issued_started (s : State) (i : Instr) : s.Issued (s.started i) [] := by
  cases i <;> exact ⟨rfl, rfl, rfl, rfl, rfl⟩

/-- One request more, and its answer taken. -/
theorem State.Issued.request (h : s.Issued u requests) (n : Nat) (r : BusRequest) :
    s.Issued (u.request n r).drawn (r :: requests) := by
  obtain ⟨hq, hd, ha, hrst, hc⟩ := h
  refine ⟨congrArg (List.cons r) hq, congrArg (· + 1) hd, ?_, hrst, hc⟩
  show u.ports.answers.tail = s.ports.answers.drop (requests.length + 1)
  rw [ha, List.tail_drop]

/-- The answers to come are those behind the answers taken. -/
theorem State.Issued.answerAt (h : s.Issued u requests) (k : Nat) :
    u.answerAt k = s.answerAt (requests.length + k) := by
  obtain ⟨-, hd, ha, -, -⟩ := h
  simp only [State.answerAt, hd, ha, List.getElem?_drop, Nat.add_assoc]

end

end Sys2Proof.Machine

open Sys2Proof Sys2Proof.Machine Sys2Proof.Claims

/-- Settles O14: each direction undoes the other. -/
theorem transferIsBigEndian : Obligations.TransferIsBigEndian :=
  ⟨fun v => ⟨rfl, be16Unpack_be16Pack v⟩, fun b0 b1 => ⟨rfl, be16Pack_be16Unpack b0 b1⟩⟩

/-- Settles O37: the pending transaction of a running command meets no answer. -/
theorem unansweredTransactionHangs : Obligations.UnansweredTransactionHangs := by
  intro s h hr hb ha
  exact ⟨s.drawn, (step_busy hr hb).trans (resume_silent h hb ha), rfl⟩

end

section
/-! PROOFS. The transactions a command has issued, and how the last one's answer ends it (R63, R201, R211). -/

namespace Sys2Proof.Machine

open Sys2Proof.Claims

/-- A request is of its action's kind. -/
theorem transaction_of_requestOf {a : Action} {u : State} {r : BusRequest} (h : requestOf a u = some r) :
    a.transaction = some (transactionOf r) := by
  cases a with
  | readT | write _ _ | get _ | sample =>
    cases h
    rfl
  | cacheRange _ | markInited => cases h

/-- Every command's rule lists a transaction. -/
theorem transactionsOf_ne_nil (i : Instr) : transactionsOf i ≠ [] := by
  cases i <;> exact List.cons_ne_nil _ _

/-- Behind the read of a getter or of a sample a text has nothing left. -/
theorem nothing_behind_end {i : Instr} {a : Action} {rest : List Action} (h : a :: rest <:+ textOf i)
    (ha : a = .sample ∨ ∃ f, a = .get f) : rest = [] := by
  have hchain : (textOf i).IsChain fun b _ => ¬ (b = .sample ∨ ∃ f, b = .get f) := by cases i <;> simp
  cases rest with
  | nil => rfl
  | cons b rest => exact absurd ha (List.isChain_cons_cons.mp (hchain.suffix h)).1

/-- From s, command i has come to t, issuing its transactions once and ending as the last answer says: the conclusion of
O36. -/
def State.IssuesOnce (s t : State) (i : Instr) : Prop :=
  t.cmdr = encode i ∧ ∃ requests, s.Issued t requests ∧
    requests.reverse.map transactionOf <+: transactionsOf i ∧
    (∀ k, k + 1 < requests.length → ∃ v, s.answerAt k = .ok v) ∧
    (t.busy = true → requests ≠ [] ∧ s.answerAt (requests.length - 1) = .silent ∧ t.seq = .trans requests.length) ∧
    (t.busy = false → t.status = 1#3 → requests ≠ [] ∧
      ∃ e v, s.answerAt (requests.length - 1) = .err e v ∧ t.errinfo = busErrCode e) ∧
    (t.busy = false → t.status = 0#3 ∨ t.status = 5#3 → requests.reverse.map transactionOf = transactionsOf i ∧
      ∃ v, s.answerAt (requests.length - 1) = .ok v) ∧
    (t.busy = false → t.status = 2#3 ∨ t.status = 4#3 → requests = [])

/-- A command refused before any transaction: CFG_ERR or NOT_INIT (R202, R204). -/
theorem issuesOnce_reject (s : State) (i : Instr) {c : Status} (hc : c = .cfgErr ∨ c = .notInit) :
    s.IssuesOnce ((s.accept (encode i)).reject c) i := by
  refine ⟨rfl, [], ⟨rfl, rfl, rfl, rfl, rfl⟩, List.nil_prefix, nofun, nofun, fun _ h => ?_, fun _ h => ?_,
    fun _ _ => rfl⟩ <;>
    obtain rfl | rfl := hc <;> simp [statusCode] at h

/-- From s, command i has come to u with l of its text left: it has issued these requests, n - 1 of them, each answered
with success. -/
structure State.Asks (s u : State) (i : Instr) (l : List Action) (n : Nat) (requests : List BusRequest) : Prop where
  suffix : l <:+ textOf i
  cmdr : u.cmdr = encode i
  busy : u.busy = true
  issued : s.Issued u requests
  number : n = requests.length + 1
  kinds : requests.reverse.map transactionOf ++ l.filterMap Action.transaction = transactionsOf i
  answered : ∀ k, k < requests.length → ∃ v, s.answerAt k = .ok v

section
variable {s u w t : State} {i : Instr} {a : Action} {rest : List Action} {n : Nat} {r : BusRequest}
  {requests : List BusRequest}

/-- The next answer is that to the request about to be made. -/
theorem State.Asks.answerAt {l : List Action} (h : s.Asks u i l n requests) :
    s.answerAt requests.length = u.answerAt 0 := (h.issued.answerAt 0).symm

/-- The kinds of the requests, one more made. -/
theorem State.Asks.kinds_cons (h : s.Asks u i (a :: rest) n requests) (hr : requestOf a u = some r) :
    (r :: requests).reverse.map transactionOf ++ rest.filterMap Action.transaction = transactionsOf i := by
  rw [← h.kinds, List.filterMap_cons_some (transaction_of_requestOf hr)]
  simp

/-- A transaction that succeeds. -/
theorem State.Asks.next {v : Word} (h : s.Asks u i (a :: rest) n requests) (hr : requestOf a u = some r)
    (hv : u.answerAt 0 = .ok v) (hp : w.ports = (u.request n r).drawn.ports) (hc : w.cmdr = u.cmdr)
    (hb : w.busy = u.busy) : s.Asks w i rest (n + 1) (r :: requests) where
  suffix := (List.suffix_cons a rest).trans h.suffix
  cmdr := hc.trans h.cmdr
  busy := hb.trans h.busy
  issued := (h.issued.request n r).of_ports (by rw [hp])
  number := congrArg (· + 1) h.number
  kinds := h.kinds_cons hr
  answered k hk := by
    rcases Nat.lt_succ_iff_lt_or_eq.mp hk with hk | rfl
    · exact h.answered k hk
    · exact ⟨v, h.answerAt.trans hv⟩

/-- An action inside the block. -/
theorem State.Asks.inside (h : s.Asks u i (a :: rest) n requests) (ha : a.transaction = none)
    (hp : w.ports = u.ports) (hc : w.cmdr = u.cmdr) (hb : w.busy = u.busy) : s.Asks w i rest n requests where
  suffix := (List.suffix_cons a rest).trans h.suffix
  cmdr := hc.trans h.cmdr
  busy := hb.trans h.busy
  issued := h.issued.of_ports (by rw [hp])
  number := h.number
  kinds := by rw [← h.kinds, List.filterMap_cons_none ha]
  answered := h.answered

/-- The last request is not answered: the command waits there. -/
theorem State.Asks.waits (h : s.Asks u i (a :: rest) n requests) (hr : requestOf a u = some r)
    (ha : u.answerAt 0 = .silent) : s.IssuesOnce (u.request n r).drawn i := by
  refine ⟨h.cmdr, r :: requests, h.issued.request n r, ⟨_, h.kinds_cons hr⟩,
    fun k hk => h.answered k (Nat.lt_of_succ_lt_succ hk), fun _ => ?_, ?_, ?_, ?_⟩
  · exact ⟨List.cons_ne_nil _ _, h.answerAt.trans ha, congrArg Seq.trans h.number⟩
  all_goals simp [h.busy]

/-- The last request failed: the command ends in that BUS_ERR. -/
theorem State.Asks.fails {e : BusErr} {v : Word} (h : s.Asks u i (a :: rest) n requests) (hr : requestOf a u = some r)
    (ha : u.answerAt 0 = .err e v) (hp : w.ports = (u.request n r).drawn.ports) (hc : w.cmdr = u.cmdr) :
    s.IssuesOnce (w.failBus e) i := by
  refine ⟨hc.trans h.cmdr, r :: requests, (h.issued.request n r).of_ports (by simp [hp]), ⟨_, h.kinds_cons hr⟩,
    fun k hk => h.answered k (Nat.lt_of_succ_lt_succ hk), nofun, fun _ _ => ?_, ?_, ?_⟩
  · exact ⟨List.cons_ne_nil _ _, e, v, h.answerAt.trans ha, rfl⟩
  all_goals simp

/-- All transactions have succeeded: the command ends in OK or RSVD_CODE. -/
theorem State.Asks.completes (h : s.Asks u i [] n requests) {st : BitVec 3} (hst : st = 0#3 ∨ st = 5#3)
    (res : ResWord) (valid : Bool) : s.IssuesOnce (u.respond st 0#2 res valid) i := by
  have hkinds : requests.reverse.map transactionOf = transactionsOf i := by
    rw [← h.kinds, List.filterMap_nil, List.append_nil]
  have hne : requests ≠ [] := by
    rintro rfl
    exact transactionsOf_ne_nil i hkinds.symm
  have hlast : requests.length - 1 < requests.length := Nat.sub_one_lt (by simpa using hne)
  refine ⟨h.cmdr, requests, h.issued.of_ports rfl, hkinds ▸ List.prefix_rfl, fun k hk => h.answered k (by omega), nofun,
    fun _ h1 => ?_, fun _ _ => ⟨hkinds, h.answered _ hlast⟩, fun _ h2 => ?_⟩
  · rw [State.respond_status] at h1
    simp [h1] at hst
  · rw [State.respond_status] at h2
    obtain rfl | rfl := hst <;> simp at h2

end

/-- Every run of a command issues its transactions once, and ends as the last answer says. -/
theorem issuesOnce_rule (s : State) (i : Instr) :
    RunRule (fun l n u => ∃ requests, s.Asks u i l n requests)
      (fun r => ∀ t, r.out = .next t → s.IssuesOnce t i) where
  done := by
    rintro n u ⟨requests, h⟩ _ ⟨⟩
    exact h.completes (.inl rfl) _ _
  waits := by
    rintro a rest n u r ⟨requests, h⟩ hr ha _ ⟨⟩
    exact h.waits hr ha
  fails := by
    rintro a rest n u r e v ⟨requests, h⟩ hr ha _ ⟨⟩
    exact h.fails hr ha (by cases a <;> rfl) (by cases a <;> rfl)
  gets := by
    rintro f rest n u v ⟨requests, h⟩ ha _ ⟨⟩
    obtain rfl := nothing_behind_end h.suffix (.inr ⟨f, rfl⟩)
    have hread := h.next (w := (u.request n (.read .config)).drawn) rfl ha rfl rfl rfl
    rcases State.getterEnd_cases (u.request n (.read .config)).drawn f (extractField f (u.configRead v))
      with ⟨_, hend⟩ | ⟨_, hend⟩ <;> rw [hend]
    · exact hread.completes (.inl rfl) _ _
    · exact hread.completes (.inr rfl) _ _
  samples := by
    rintro rest n u v ⟨requests, h⟩ ha t ht
    obtain rfl := nothing_behind_end h.suffix (.inl rfl)
    have hread := h.next (w := (u.request n (.read .data)).drawn.sampled v) rfl ha rfl rfl rfl
    obtain ⟨m, rfl⟩ := State.sampleEnd_next ht
    exact hread.completes (.inl rfl) _ _
  readT := fun ⟨_, h⟩ ha => ⟨_, h.next rfl ha rfl rfl rfl⟩
  write := fun ⟨_, h⟩ ha => ⟨_, h.next rfl ha rfl rfl rfl⟩
  cacheRange := fun ⟨_, h⟩ => ⟨_, h.inside rfl rfl rfl rfl⟩
  markInited := fun ⟨_, h⟩ => ⟨_, h.inside rfl rfl rfl rfl⟩

/-- An accepted command that has passed its checks has issued nothing, and its whole text is left. -/
theorem asks_started (s : State) (i : Instr) : s.Asks (s.started i) i (textOf i) 1 [] where
  suffix := List.suffix_rfl
  cmdr := State.started_cmdr s i
  busy := State.started_busy s i
  issued := issued_started s i
  number := rfl
  kinds := (transactionsOf_eq i).symm
  answered := nofun

end Sys2Proof.Machine

open Sys2Proof Sys2Proof.Machine Sys2Proof.Claims

/-- Settles O36: a refusal comes before any transaction, and a run obeys the rule of its actions. -/
theorem eachTransactionIsIssuedOnce : Obligations.EachTransactionIsIssuedOnce := by
  intro i s t hb ht
  show s.IssuesOnce t i
  rcases exec_cases i hb with ⟨_, he⟩ | ⟨_, _, _, he⟩ | ⟨_, he⟩ <;> rw [he] at ht
  · cases ht
    exact issuesOnce_reject s i (.inl rfl)
  · cases ht
    exact issuesOnce_reject s i (.inr rfl)
  · exact (issuesOnce_rule s i).run ⟨[], asks_started s i⟩ t ht

end

section
/-! PROOFS. A transaction answered in a later step (R6, R68; log entry 12). -/

namespace Sys2Proof.Machine

open Sys2Proof.Claims

/-! ## The model's count of draws, one further -/

/-- The state whose answers are counted one further, as after a step that found none. -/
def State.late (s : State) : State := { s with ports := { s.ports with draws := s.ports.draws + 1 } }

/-- A run that has come to a state whose answers are counted one further. -/
def Run.late : Run → Run
  | .ended s => .ended s.late
  | .sampled s => .sampled s.late

/-- A command's answer, the answers counted one further in the next state. -/
def lateOut : Out → Out
  | .next s => .next s.late
  | .fault f => .fault f
  | .refused r => .refused r

/-- A settled answer does not depend on the count. -/
theorem answerAt_late {s : State} (h : s.ports.answers ≠ []) : s.late.answerAt 0 = s.answerAt 0 := by
  obtain ⟨a, rest, ha⟩ := List.exists_cons_of_ne_nil h
  simp [State.late, State.answerAt, ha]

/-- A request does not depend on the count. -/
theorem requestOf_late (a : Action) (s : State) : requestOf a s.late = requestOf a s := requestOf_congr rfl a

/-- The end of a getter does not look at the count. -/
theorem getterEnd_late (s : State) (f : Field) (c : Code) : s.late.getterEnd f c = (s.getterEnd f c).late := by
  cases hv : valid f c <;> simp only [State.getterEnd, hv, Bool.false_eq_true, if_false, if_true] <;> rfl

/-- The scaling step does not look at the count. -/
theorem Run.late_out (r : Run) : r.late.out = lateOut r.out := by
  cases r with
  | ended s => rfl
  | sampled s =>
    show s.late.sampleEnd = lateOut s.sampleEnd
    rcases s.sampleEnd_cases with ⟨hc, he⟩ | ⟨g, hc, hm, he⟩ | ⟨g, n, hc, hm, he⟩ <;> rw [he]
    · simp [State.sampleEnd, State.late, hc, lateOut]
    · simp [State.sampleEnd, State.late, hc, hm, lateOut]
    · simp [State.sampleEnd, State.late, hc, hm, lateOut, State.respond]

/-- At a transaction of a text with enough settled answers there is one. -/
theorem answers_ne_nil {a : Action} {rest : List Action} {u : State} (ha : isTransaction a = true)
    (h : (a :: rest).countP isTransaction ≤ u.ports.answers.length) : u.ports.answers ≠ [] := by
  rw [List.countP_cons_of_pos ha] at h
  exact List.ne_nil_of_length_pos (by omega)

/-- Behind a transaction of a text enough settled answers are left. -/
theorem countP_le_tail {a : Action} {rest : List Action} {u : State} (ha : isTransaction a = true)
    (h : (a :: rest).countP isTransaction ≤ u.ports.answers.length) :
    rest.countP isTransaction ≤ u.ports.answers.tail.length := by
  rw [List.countP_cons_of_pos ha] at h
  rw [List.length_tail]
  omega

/-- Where enough answers are settled, a run does not depend on the count: the late run comes to the same, counted one
further. -/
theorem late_rule (late : Run) :
    RunRule (fun l n u => l.countP isTransaction ≤ u.ports.answers.length ∧ runFrom l n u.late = late)
      (fun r => late = r.late) where
  done h := h.2.symm
  waits {a rest n u r} := by
    rintro ⟨hl, h⟩ hr ha
    have hne := answers_ne_nil (isTransaction_of_requestOf hr) hl
    rw [← h, runFrom_silent (s := u.late) ((requestOf_late a u).trans hr) ((answerAt_late hne).trans ha)]
    rfl
  fails {a rest n u r e v} := by
    rintro ⟨hl, h⟩ hr ha
    have hne := answers_ne_nil (isTransaction_of_requestOf hr) hl
    rw [← h, runFrom_err (s := u.late) ((requestOf_late a u).trans hr) ((answerAt_late hne).trans ha)]
    cases a <;> rfl
  gets {f rest n u v} := by
    rintro ⟨hl, h⟩ ha
    rw [← h, runFrom_get_ok ((answerAt_late (answers_ne_nil rfl hl)).trans ha)]
    exact congrArg Run.ended (getterEnd_late (u.request n (.read .config)).drawn f _)
  samples {rest n u v} := by
    rintro ⟨hl, h⟩ ha
    rw [← h, runFrom_sample_ok ((answerAt_late (answers_ne_nil rfl hl)).trans ha)]
    rfl
  readT := by
    rintro rest n u v ⟨hl, h⟩ ha
    rw [runFrom_readT_ok ((answerAt_late (answers_ne_nil rfl hl)).trans ha)] at h
    exact ⟨countP_le_tail rfl hl, h⟩
  write := by
    rintro f c rest n u v ⟨hl, h⟩ ha
    rw [runFrom_write_ok ((answerAt_late (answers_ne_nil rfl hl)).trans ha)] at h
    exact ⟨countP_le_tail rfl hl, h⟩
  cacheRange h := h
  markInited h := h

/-- Where enough answers are settled, the late run comes to the same, counted one further. -/
theorem runFrom_late {l : List Action} {n : Nat} {s : State} (h : l.countP isTransaction ≤ s.ports.answers.length) :
    runFrom l n s.late = (runFrom l n s).late :=
  (late_rule _).run ⟨h, rfl⟩

/-! ## A run with one answer missing -/

/-- Command i has come to u with l of its text left; one of the settled answers to come is missing, behind those of
before, none of which is missing, and there are enough others for the rest of the text. -/
structure State.Gap (u : State) (i : Instr) (l : List Action) (n : Nat) (before after : List BusAnswer) : Prop where
  counted : fromTransaction n (textOf i) = fromTransaction 1 l
  cmdr : u.cmdr = encode i
  busy : u.busy = true
  rst : u.ports.rst = false
  answers : u.ports.answers = before ++ .silent :: after
  present : ∀ a ∈ before, a ≠ .silent
  enough : l.countP isTransaction ≤ before.length + after.length

section
variable {u w : State} {i : Instr} {a : Action} {rest : List Action} {n : Nat} {before after : List BusAnswer}
  {r : BusRequest}

/-- Before the gap the next answer is the next of those before it. -/
theorem State.Gap.exists_cons {l : List Action} {v : Word} (h : u.Gap i l n before after) (hv : u.answerAt 0 = .ok v) :
    ∃ before', before = .ok v :: before' := by
  cases before with
  | nil => simp [State.answerAt, h.answers] at hv
  | cons b before' =>
    obtain rfl : b = .ok v := by simpa [State.answerAt, h.answers] using hv
    exact ⟨before', rfl⟩

/-- At the gap none is left before it. -/
theorem State.Gap.before_nil {l : List Action} (h : u.Gap i l n before after) (hv : u.answerAt 0 = .silent) :
    before = [] := by
  cases before with
  | nil => rfl
  | cons b before' =>
    obtain rfl : b = .silent := by simpa [State.answerAt, h.answers] using hv
    exact absurd rfl (h.present _ (.head _))

/-- A transaction before the gap succeeds. -/
theorem State.Gap.next {v : Word} (h : u.Gap i (a :: rest) n (.ok v :: before) after) (ha : isTransaction a = true)
    (hp : w.ports = (u.request n r).drawn.ports) (hc : w.cmdr = u.cmdr) (hb : w.busy = u.busy) :
    w.Gap i rest (n + 1) before after where
  counted := fromTransaction_succ (by rw [h.counted, fromTransaction_one_cons ha])
  cmdr := hc.trans h.cmdr
  busy := hb.trans h.busy
  rst := by
    rw [hp]
    exact h.rst
  answers := by
    rw [hp]
    exact congrArg List.tail h.answers
  present b hb := h.present b (.tail _ hb)
  enough := by
    have h := h.enough
    rw [List.countP_cons_of_pos ha, List.length_cons] at h
    omega

/-- An action inside the block. -/
theorem State.Gap.inside (h : u.Gap i (a :: rest) n before after) (ha : isTransaction a = false)
    (hp : w.ports = u.ports) (hc : w.cmdr = u.cmdr) (hb : w.busy = u.busy) : w.Gap i rest n before after where
  counted := by rw [h.counted, fromTransaction_cons_of_not ha]
  cmdr := hc.trans h.cmdr
  busy := hb.trans h.busy
  rst := by
    rw [hp]
    exact h.rst
  answers := by
    rw [hp]
    exact h.answers
  present := h.present
  enough := by
    rw [← List.countP_cons_of_neg (a := a) (by simp [ha])]
    exact h.enough

/-- At the gap the command waits, and the next step runs the rest of its text with the answers behind the gap. -/
theorem State.Gap.resumes (h : u.Gap i (a :: rest) n [] after) (hr : requestOf a u = some r) :
    step (u.request n r).drawn = lateOut (runFrom (a :: rest) n (withAnswers u after)).out := by
  have ha := isTransaction_of_requestOf hr
  have hlate : (withAnswers u after).late.reach a n = (u.request n r).drawn := by
    have hr' : requestOf a (withAnswers u after).late = some r := (requestOf_congr rfl a).trans hr
    rw [State.reach, hr']
    simp [State.late, withAnswers, State.request, State.drawn, h.answers]
  have hp : (u.request n r).drawn.pending = some (n, a, rest) :=
    (pending_eq rfl (i := i) (by simp [h.cmdr, decode_encode])).mpr (by rw [h.counted, fromTransaction_one_cons ha])
  calc step (u.request n r).drawn
    _ = resume (u.request n r).drawn := step_busy h.rst h.busy
    _ = (runFrom (a :: rest) n (withAnswers u after).late).out := by rw [runFrom_cons, hlate, resume, hp]
    _ = lateOut (runFrom (a :: rest) n (withAnswers u after)).out := by
      rw [runFrom_late (by simpa [withAnswers] using h.enough), Run.late_out]

end

/-- A run with one answer missing, where it waits, goes on in the next step to what the run without the gap answers. -/
theorem gap_rule (i : Instr) (after : List BusAnswer) (o : Out) :
    RunRule (fun l n u => ∃ before, u.Gap i l n before after ∧ (runFrom l n (withAnswers u (before ++ after))).out = o)
      (fun r => ∀ t, r.out = .next t → t.busy = true → step t = lateOut o) where
  done := by
    rintro n u _ _ ⟨⟩ hb
    cases hb
  waits := by
    rintro a rest n u r ⟨before, h, ho⟩ hr ha _ ⟨⟩ _
    obtain rfl := h.before_nil ha
    exact ho ▸ h.resumes hr
  fails := by
    rintro a rest n u r e v _ _ _ _ ⟨⟩ hb
    cases hb
  gets := by
    rintro f rest n u v _ _ _ ⟨⟩ hb
    rcases State.getterEnd_cases (u.request n (.read .config)).drawn f (extractField f (u.configRead v))
      with ⟨_, hend⟩ | ⟨_, hend⟩ <;> rw [hend] at hb <;> cases hb
  samples := by
    rintro rest n u v _ _ t ht hb
    obtain ⟨m, rfl⟩ := State.sampleEnd_next ht
    cases hb
  readT := by
    rintro rest n u v ⟨before, h, ho⟩ ha
    obtain ⟨before', rfl⟩ := h.exists_cons ha
    rw [runFrom_readT_ok rfl] at ho
    exact ⟨before', h.next rfl rfl rfl rfl, ho⟩
  write := by
    rintro f c rest n u v ⟨before, h, ho⟩ ha
    obtain ⟨before', rfl⟩ := h.exists_cons ha
    rw [runFrom_write_ok rfl] at ho
    exact ⟨before', h.next rfl rfl rfl rfl, ho⟩
  cacheRange := fun ⟨before, h, ho⟩ => ⟨before, h.inside rfl rfl rfl rfl, ho⟩
  markInited := fun ⟨before, h, ho⟩ => ⟨before, h.inside rfl rfl rfl rfl, ho⟩

/-- No command's text has more transactions than INIT's eight (R160). -/
theorem countP_textOf_le (i : Instr) : (textOf i).countP isTransaction ≤ 8 := by
  cases i <;> simp [List.countP_cons, isTransaction]

/-- An accepted command with one answer missing. -/
theorem gap_started {s : State} (i : Instr) {before after : List BusAnswer} (hr : s.ports.rst = false)
    (hp : ∀ a ∈ before, a ≠ .silent) (h8 : 8 ≤ before.length + after.length) :
    (withAnswers (s.started i) (before ++ .silent :: after)).Gap i (textOf i) 1 before after where
  counted := rfl
  cmdr := State.started_cmdr s i
  busy := State.started_busy s i
  rst := by cases i <;> exact hr
  answers := rfl
  present := hp
  enough := (countP_textOf_le i).trans h8

/-- Acceptance does not look at the answers. -/
theorem started_withAnswers (s : State) (i : Instr) (answers : List BusAnswer) :
    (withAnswers s answers).started i = withAnswers (s.started i) answers := by
  cases i <;> rfl

/-- A run's answer is a next state or a stop. -/
theorem Run.out_not_refused (r : Run) (why : Refusal) : r.out ≠ .refused why := by
  cases r with
  | ended s => nofun
  | sampled s =>
    rw [Run.out_sampled]
    rcases s.sampleEnd_cases with ⟨_, h⟩ | ⟨_, _, _, h⟩ | ⟨_, _, _, _, h⟩ <;> rw [h] <;> nofun

end Sys2Proof.Machine

open Sys2Proof Sys2Proof.Machine Sys2Proof.Claims

/-- Settles O39: a command that waits has passed its checks, and its run, with and without the gap side by side, comes
to the same. -/
theorem lateAnswerChangesNothing : Obligations.LateAnswerChangesNothing := by
  intro i s t before after hb hr hp h8 ht hbt
  rcases exec_cases i (s := withAnswers s (before ++ .silent :: after)) hb
    with ⟨_, he⟩ | ⟨_, _, _, he⟩ | ⟨hadm, he⟩ <;> rw [he] at ht
  · cases ht
    cases hbt
  · cases ht
    cases hbt
  · have hrun : exec i (withAnswers s (before ++ after)) = _ := exec_runs hb hadm
    rw [started_withAnswers] at ht hrun
    have hstep : step t = lateOut (exec i (withAnswers s (before ++ after))) :=
      (gap_rule i after _).run ⟨before, gap_started i hr hp h8, hrun.symm⟩ t ht hbt
    cases ho : exec i (withAnswers s (before ++ after)) with
    | next u => rwa [ho] at hstep
    | fault f => rwa [ho] at hstep
    | refused why => exact Run.out_not_refused _ why (hrun.symm.trans ho)

end

section
/-! PROOFS. INIT, transaction by transaction, as far as its transactions succeed (R160, R209). -/

namespace Sys2Proof.Machine

open Sys2Proof.Claims

/-! ## The transactions of INIT by their number -/

/-- The field of INIT's m-th sub-step, counted from 0. -/
def initField : Nat → Field
  | 0 => .rate
  | 1 => .mode
  | 2 => .mux
  | _ => .range

/-- The number of the sub-step that writes a field, counted from 0. -/
def initIndex : Field → Nat
  | .rate => 0
  | .mode => 1
  | .mux => 2
  | .range => 3

theorem initField_initIndex (f : Field) : initField (initIndex f) = f := by cases f <;> rfl

theorem initIndex_initField : ∀ m < 4, initIndex (initField m) = m := by decide

/-- The code INIT writes to a field. -/
def initCode : Field → Code
  | .rate => initRate
  | .mode => initMode
  | .mux => initMux
  | .range => initRange

/-- INIT's n-th transaction, counted from 0, as a line of its text. -/
def initAction (n : Nat) : Action :=
  if n % 2 = 0 then .readT else .write (initField (n / 2)) (initCode (initField (n / 2)))

/-- INIT's n-th request, counted from 0, from CFG = c, where its transactions succeed with the draws v. -/
def initRequest (c : Word) (v : Nat → Word) (n : Nat) : BusRequest :=
  if n % 2 = 0 then .read .config else .writeConfig (initWrite (n / 2) (initRead c v (n / 2)))

/-- CFG after INIT's first m sub-steps, from CFG = c, where its transactions succeed with the draws v. -/
def initCfg (c : Word) (v : Nat → Word) : Nat → Word
  | 0 => c
  | m + 1 => mergeFields (initWrite m (initRead c v m)) (v (2 * m + 1))

section
variable {c : Word} {v : Nat → Word}

@[simp] theorem initAction_even (m : Nat) : initAction (2 * m) = .readT := by simp [initAction]

@[simp] theorem initAction_odd (m : Nat) :
    initAction (2 * m + 1) = .write (initField m) (initCode (initField m)) := by
  have hdiv : (2 * m + 1) / 2 = m := by omega
  simp [initAction, hdiv]

@[simp] theorem initRequest_even (m : Nat) : initRequest c v (2 * m) = .read .config := by simp [initRequest]

@[simp] theorem initRequest_odd (m : Nat) :
    initRequest c v (2 * m + 1) = .writeConfig (initWrite m (initRead c v m)) := by
  have hdiv : (2 * m + 1) / 2 = m := by omega
  simp [initRequest, hdiv]

/-- The first eight lines of INIT's text are its transactions. -/
theorem drop_textOf_init : ∀ n < 8, (textOf .init).drop n = initAction n :: (textOf .init).drop (n + 1) := by decide

/-- One request more of INIT's list. -/
theorem take_initRequests {n : Nat} (hn : n < 8) :
    ((initRequests c v).take (n + 1)).reverse = initRequest c v n :: ((initRequests c v).take n).reverse := by
  have hget : (initRequests c v)[n]? = some (initRequest c v n) := by
    interval_cases n <;> rfl
  rw [List.take_add_one, hget]
  simp

/-- The word of a write of INIT is the word read, with the sub-step's field replaced (R130). -/
theorem initWrite_eq (m : Nat) (r : Word) : initWrite m r = insertField (initField m) r (initCode (initField m)) := by
  match m with
  | 0 => exact (insertField_rate r initRate).symm
  | 1 =>
    show r &&& 0xFEFF#16 = insertField .mode r initMode
    rw [insertField_mode]
    simp [initMode]
  | 2 => exact (insertField_mux r initMux).symm
  | m + 3 =>
    show r &&& 0xF1FF#16 = insertField .range r initRange
    rw [insertField_range]
    simp [initRange]

/-- What a read of INIT returns: the fields CFG then holds (R55). -/
theorem initRead_eq (m : Nat) : initRead c v m = mergeFields (initCfg c v m) (v (2 * m)) := by
  cases m with
  | zero => rfl
  | succ m => exact (mergeFields_mergeFields _ _ _).symm

/-- The first sub-steps' fields hold INIT's codes, the others are as they were (R103, R160). -/
theorem extractField_initCfg (f : Field) {m : Nat} (hm : m ≤ 4) :
    extractField f (initCfg c v m) = if initIndex f < m then initCode f else extractField f c := by
  induction m with
  | zero => rfl
  | succ m ih =>
    rw [initCfg, extractField_mergeFields, initWrite_eq]
    by_cases hf : f = initField m
    · have hindex : initIndex f = m := by rw [hf, initIndex_initField m hm]
      have hfits : (initCode f).toNat < 2 ^ fieldWidth f := by cases f <;> decide
      rw [← hf, extractField_insertField f _ _ hfits, if_pos (by omega)]
    · have hindex : initIndex f ≠ m := by
        rintro rfl
        exact hf (initField_initIndex f).symm
      have hlt : initIndex f < m + 1 ↔ initIndex f < m := by omega
      rw [extractField_insertField_of_ne (Ne.symm hf), initRead_eq, extractField_mergeFields, ih (by omega)]
      simp only [hlt]

end

/-! ## INIT under way -/

/-- From s, INIT has come to u, its first n transactions successful with the draws v: those requests are issued, T is
the last word read, CFG holds the sub-steps completed, and nothing else has changed but INITED, BUSY and CMDR. -/
structure State.InitAt (s : State) (v : Nat → Word) (n : Nat) (u : State) : Prop where
  issued : s.Issued u ((initRequests s.cfg v).take n).reverse
  t_kept : n = 0 → u.t = s.t
  t_read : 1 ≤ n → u.t = initRead s.cfg v ((n - 1) / 2)
  cfg : u.cfg = initCfg s.cfg v (n / 2)
  data : u.data = s.data
  cachedRange : u.cachedRange = s.cachedRange
  inited : u.inited = false
  status : u.status = s.status
  errinfo : u.errinfo = s.errinfo
  res : u.res = s.res
  resValid : u.resValid = s.resValid
  busy : u.busy = true
  cmdr : u.cmdr = encode .init
  responses : u.ports.responses = s.ports.responses

section
variable {s u : State} {v : Nat → Word} {n : Nat}

/-- Accepted, INIT is at its first transaction. -/
theorem initAt_started (s : State) (v : Nat → Word) : s.InitAt v 0 (s.started .init) where
  issued := issued_started s .init
  t_kept _ := rfl
  t_read := nofun
  cfg := rfl
  data := rfl
  cachedRange := rfl
  inited := rfl
  status := rfl
  errinfo := rfl
  res := rfl
  resValid := rfl
  busy := rfl
  cmdr := rfl
  responses := rfl

/-- The answer to INIT's next transaction. -/
theorem State.InitAt.answerAt (h : s.InitAt v n u) (hn : n ≤ 8) : u.answerAt 0 = s.answerAt n := by
  have hlen : ((initRequests s.cfg v).take n).reverse.length = n := by simp [initRequests, hn]
  rw [h.issued.answerAt, hlen, Nat.add_zero]

/-- The request of INIT's next transaction. -/
theorem State.InitAt.requestOf (h : s.InitAt v n u) : requestOf (initAction n) u = some (initRequest s.cfg v n) := by
  obtain ⟨m, rfl | rfl⟩ := n.even_or_odd'
  · simp [Machine.requestOf]
  · have hT : u.t = initRead s.cfg v m := by
      rw [h.t_read (by omega)]
      congr 1
      omega
    simp [Machine.requestOf, hT, initWrite_eq]

/-- The requests of INIT, one more made. -/
theorem State.InitAt.issued_request (h : s.InitAt v n u) (hn : n < 8) (k : Nat) :
    s.Issued (u.request k (initRequest s.cfg v n)).drawn ((initRequests s.cfg v).take (n + 1)).reverse := by
  rw [take_initRequests hn]
  exact h.issued.request k _

/-- INIT's next transaction succeeds: INIT comes to the one behind it. -/
theorem State.InitAt.next (h : s.InitAt v n u) (hn : n < 8) (ha : u.answerAt 0 = .ok (v n)) (k : Nat) :
    ∃ w, s.InitAt v (n + 1) w ∧
      runFrom ((textOf .init).drop n) k u = runFrom ((textOf .init).drop (n + 1)) (k + 1) w := by
  have hreq := h.requestOf
  have hissued := h.issued_request hn k
  rw [drop_textOf_init n hn]
  obtain ⟨m, rfl | rfl⟩ := n.even_or_odd'
  · have hm : 2 * m / 2 = m := by omega
    have hm' : (2 * m + 1) / 2 = m := by omega
    have hcfg : u.cfg = initCfg s.cfg v m := by rw [h.cfg, hm]
    rw [initRequest_even] at hissued
    rw [initAction_even, runFrom_readT_ok ha]
    refine ⟨_, ?_, rfl⟩
    exact
      { h with
        issued := hissued.of_ports rfl
        t_kept := nofun
        t_read := fun _ => by
          rw [Nat.add_sub_cancel, hm, initRead_eq, ← hcfg]
          rfl
        cfg := by
          rw [hm']
          exact hcfg }
  · have hm : (2 * m + 1 + 1) / 2 = m + 1 := by omega
    have hm' : (2 * m + 1 + 1 - 1) / 2 = (2 * m + 1 - 1) / 2 := by omega
    rw [initAction_odd, initRequest_odd] at hreq
    rw [initRequest_odd] at hissued
    have hword : insertField (initField m) u.t (initCode (initField m)) = initWrite m (initRead s.cfg v m) :=
      BusRequest.writeConfig.inj (Option.some.inj hreq)
    rw [initAction_odd, runFrom_write_ok ha, hword]
    refine ⟨_, ?_, rfl⟩
    exact
      { h with
        issued := hissued.of_ports rfl
        t_kept := nofun
        t_read := fun _ => by
          rw [hm']
          exact h.t_read (by omega)
        cfg := by
          rw [hm]
          rfl }

/-- INIT whose first n transactions succeed comes to the next. -/
theorem init_reaches (s : State) (v : Nat → Word) (hn : n ≤ 8) (hv : ∀ k, k < n → s.answerAt k = .ok (v k)) :
    ∃ u, s.InitAt v n u ∧
      runFrom (textOf .init) 1 (s.started .init) = runFrom ((textOf .init).drop n) (n + 1) u := by
  induction n with
  | zero => exact ⟨_, initAt_started s v, rfl⟩
  | succ n ih =>
    obtain ⟨u, hu, hrun⟩ := ih (by omega) fun k hk => hv k (by omega)
    obtain ⟨w, hw, hnext⟩ := hu.next (by omega) ((hu.answerAt (by omega)).trans (hv n (by omega))) (n + 1)
    exact ⟨w, hw, hrun.trans hnext⟩

/-- INIT whose next transaction has its request made, and not succeeded, has come to that transaction. -/
theorem State.InitAt.reached {t : State} (h : s.InitAt v n u) (hn : n < 8) {k : Nat}
    (hp : t.ports = { (u.request k (initRequest s.cfg v n)).drawn.ports with responses := t.ports.responses })
    (ht : t.t = u.t) (hi : t.inited = u.inited) (hr : t.cachedRange = u.cachedRange) (hd : t.data = u.data)
    (hc : t.cmdr = u.cmdr) : InitReached n v s t :=
  ⟨(h.issued_request hn k).of_ports hp, fun h0 => ht.trans (h.t_kept h0), fun h1 => ht.trans (h.t_read h1),
    hi.trans h.inited, hr.trans h.cachedRange, hd.trans h.data, hc.trans h.cmdr⟩

/-- CFG.mode as the one bit it is. -/
theorem extractLsb_mode (w : Word) : w.extractLsb 8 8 = (extractField .mode w).setWidth 1 := by
  have hbit : ∀ b : BitVec 1, b = (b.setWidth 3).setWidth 1 := by decide
  rw [extractField_mode]
  exact hbit _

/-- In CFG the sub-steps completed before. -/
theorem State.InitAt.fields {t : State} (h : s.InitAt v n u) (hn : n < 8) (ht : t.cfg = u.cfg) : InitFields n s t := by
  have hfield (f : Field) := extractField_initCfg (c := s.cfg) (v := v) f (m := n / 2) (by omega)
  rw [← h.cfg, ← ht] at hfield
  have hdone (f : Field) (hf : 2 * initIndex f + 2 ≤ n) : extractField f t.cfg = initCode f := by
    rw [hfield, if_pos (by omega)]
  have hleft (f : Field) (hf : ¬ 2 * initIndex f + 2 ≤ n) : extractField f t.cfg = extractField f s.cfg := by
    rw [hfield, if_neg (by omega)]
  refine ⟨?_, ?_, ?_, ?_⟩
  · rw [← extractField_rate, ← extractField_rate]
    split
    · exact hdone .rate ‹_›
    · exact hleft .rate ‹_›
  · rw [extractLsb_mode, extractLsb_mode]
    split
    · rw [hdone .mode ‹_›]
      rfl
    · rw [hleft .mode ‹_›]
  · rw [← extractField_mux, ← extractField_mux]
    split
    · exact hdone .mux ‹_›
    · exact hleft .mux ‹_›
  · rw [← extractField_range, ← extractField_range]
    exact hleft .range (by simp only [initIndex]; omega)

end

end Sys2Proof.Machine

open Sys2Proof Sys2Proof.Machine Sys2Proof.Claims

/-- Settles O53: INIT comes to its n-th transaction, which is not answered. -/
theorem initWaitsAtTheFirstSilence : Obligations.InitWaitsAtTheFirstSilence := by
  intro s n v hb hn hv hsilent
  obtain ⟨u, hu, hrun⟩ := init_reaches s v hn.le hv
  have hwaits := runFrom_silent hu.requestOf ((hu.answerAt hn.le).trans hsilent) ((textOf .init).drop (n + 1)) (n + 1)
  refine ⟨(u.request (n + 1) (initRequest s.cfg v n)).drawn, ?_, ?_, ?_, ?_⟩
  · rw [exec_runs hb ⟨rfl, by simp⟩, hrun, drop_textOf_init n hn, hwaits, Run.out_ended]
  · exact ⟨hu.busy, rfl, hu.status, hu.errinfo, hu.res, hu.resValid, hu.responses⟩
  · exact hu.reached hn rfl rfl rfl rfl rfl rfl
  · exact hu.fields hn rfl

end

section
/-! PROOFS. The opcode map: a word hits a row exactly when it is the word of a command with that row's mnemonic (R75 to
R78). -/

namespace Sys2Proof.Machine

/-! ## The decoder and the opcode map -/

/-- The word of a command stands in the row of its mnemonic (R75). -/
theorem opcodeRow_encode (i : Instr) : (opcodeRow (encode i)).map OpcodeRow.mnemonic = some i.mnemonic := by
  have row : Laws.EncodeRow.Statement i := by
    cases i with
    | init => exact Laws.EncodeRow.init
    | setrate r => exact Laws.EncodeRow.setrate r
    | setmode m => exact Laws.EncodeRow.setmode m
    | setmux x => exact Laws.EncodeRow.setmux x
    | setrange g => exact Laws.EncodeRow.setrange g
    | getrate => exact Laws.EncodeRow.getrate
    | getmode => exact Laws.EncodeRow.getmode
    | getmux => exact Laws.EncodeRow.getmux
    | getrange => exact Laws.EncodeRow.getrange
    | readv => exact Laws.EncodeRow.readv
    | readvch k => exact Laws.EncodeRow.readvch k
    | setch k => exact Laws.EncodeRow.setch k
  obtain ⟨-, hrow, -⟩ := row
  exact hrow

/-- A word that hits a row is the word of the row's mnemonic with the word's own ARG: a look at the twelve rows and the
256 words (R75). -/
theorem encode_of_hits : ∀ r ∈ opcodeMap, ∀ w : CmdWord, r.hits w = true →
    encode (commandOf r.mnemonic (wordArg w)) = w := by decide

/-- The command of a mnemonic has that mnemonic. -/
@[simp] theorem mnemonic_commandOf (m : Mnemonic) (c : Code) : (commandOf m c).mnemonic = m := by
  cases m <;> rfl

/-- A word that hits a row decodes to a command with the row's mnemonic (R75, R76). -/
theorem decode_of_hits {r : OpcodeRow} {w : CmdWord} (hr : r ∈ opcodeMap) (hw : r.hits w = true) :
    ∃ i, decode w = .command i ∧ i.mnemonic = r.mnemonic :=
  ⟨commandOf r.mnemonic (wordArg w), by rw [← decode_encode, encode_of_hits r hr w hw], mnemonic_commandOf _ _⟩

/-- Each mnemonic has one row (R75). -/
theorem opcodeMap_mnemonic_injective : ∀ r ∈ opcodeMap, ∀ r' ∈ opcodeMap, r.mnemonic = r'.mnemonic → r = r' := by
  decide

/-- No word hits two rows (R75). -/
theorem hits_unique {r r' : OpcodeRow} {w : CmdWord} (hr : r ∈ opcodeMap) (hr' : r' ∈ opcodeMap) (hw : r.hits w = true)
    (hw' : r'.hits w = true) : r = r' := by
  obtain ⟨i, hi, him⟩ := decode_of_hits hr hw
  obtain ⟨j, hj, hjm⟩ := decode_of_hits hr' hw'
  obtain rfl : i = j := Decoded.command.inj (hi.symm.trans hj)
  exact opcodeMap_mnemonic_injective r hr r' hr' (him.symm.trans hjm)

/-- The rows a word hits are one or none (R75). -/
theorem length_filter_hits_le_one (w : CmdWord) : (opcodeMap.filter (fun r => r.hits w)).length ≤ 1 := by
  have distinct : (opcodeMap.filter (fun r => r.hits w)).Nodup := List.Nodup.filter _ (by decide)
  match h : opcodeMap.filter (fun r => r.hits w) with
  | [] | [_] => simp [h]
  | r :: r' :: rest =>
    have hits : ∀ x ∈ r :: r' :: rest, x ∈ opcodeMap ∧ x.hits w = true := fun x hx => List.mem_filter.mp (h ▸ hx)
    obtain ⟨hr, hw⟩ := hits r (by simp)
    obtain ⟨hr', hw'⟩ := hits r' (by simp)
    obtain rfl := hits_unique hr hr' hw hw'
    simp [h] at distinct

/-- An illegal word hits no row (R76, R77). -/
theorem opcodeRow_of_illegal {w : CmdWord} {e : DecodeError} (h : decode w = .illegal e) : opcodeRow w = none := by
  refine List.find?_eq_none.mpr fun r hr hw => ?_
  obtain ⟨i, hi, -⟩ := decode_of_hits hr hw
  cases h.symm.trans hi

/-! ## The illegal words, class by class -/

/-- The illegal words of the class SYS (R77). -/
theorem decodeSys_illegal_iff (sel : BitVec 2) (arg : Code) :
    (∃ e, decodeSys sel arg = .illegal e) ↔ sel ≠ 0b01#2 ∨ arg ≠ 0#3 := by
  unfold decodeSys
  split_ifs <;> simp [*]

/-- The illegal words of the class GET (R77). -/
theorem decodeGet_illegal_iff (sel : BitVec 2) (arg : Code) :
    (∃ e, decodeGet sel arg = .illegal e) ↔ arg ≠ 0#3 := by
  unfold decodeGet
  split_ifs <;> simp [*]

/-- The illegal words of the class CONV (R77). -/
theorem decodeConv_illegal_iff (sel : BitVec 2) (arg : Code) :
    (∃ e, decodeConv sel arg = .illegal e) ↔ sel = 0b11#2 ∨ (sel = 0b00#2 ∧ arg ≠ 0#3) := by
  have selects : ∀ sel : BitVec 2, sel = 0b00#2 ∨ sel = 0b01#2 ∨ sel = 0b10#2 ∨ sel = 0b11#2 := by decide
  obtain rfl | rfl | rfl | rfl := selects sel
  · by_cases h : arg = 0#3 <;> simp [decodeConv, h]
  · simp [decodeConv]
  · simp [decodeConv]
  · simp [decodeConv]

/-- The illegal words: Z set, or the clause of the word's class (R77). -/
theorem decode_illegal_iff (w : CmdWord) : (∃ e, decode w = .illegal e) ↔
    wordZ w = 1#1 ∨
    (wordCls w = 0b00#2 ∧ (wordSel w ≠ 0b01#2 ∨ wordArg w ≠ 0#3)) ∨
    (wordCls w = 0b10#2 ∧ wordArg w ≠ 0#3) ∨
    (wordCls w = 0b11#2 ∧ wordSel w = 0b11#2) ∨
    (wordCls w = 0b11#2 ∧ wordSel w = 0b00#2 ∧ wordArg w ≠ 0#3) := by
  have classes : ∀ c : BitVec 2, c = 0b00#2 ∨ c = 0b01#2 ∨ c = 0b10#2 ∨ c = 0b11#2 := by decide
  by_cases hz : wordZ w = 1#1
  · simp [decode, hz]
  · obtain hc | hc | hc | hc := classes (wordCls w)
    · simpa [decode, hz, hc] using decodeSys_illegal_iff (wordSel w) (wordArg w)
    · simp [decode, hz, hc]
    · simpa [decode, hz, hc] using decodeGet_illegal_iff (wordSel w) (wordArg w)
    · simpa [decode, hz, hc] using decodeConv_illegal_iff (wordSel w) (wordArg w)

end Sys2Proof.Machine

open Sys2Proof Sys2Proof.Machine Sys2Proof.Claims

/-- Settles O2: the two directions of the round trip. -/
theorem decodeAndEncodeAgree : Obligations.DecodeAndEncodeAgree :=
  ⟨decode_encode, fun _ _ => encode_of_decode⟩

/-- Settles O4: the illegal words class by class, and the branch of a step that is handed one. -/
theorem illegalWordCompletesAtOnce : Obligations.IllegalWordCompletesAtOnce := by
  refine ⟨decode_illegal_iff, fun s w e rest hr hb hc hw => ?_⟩
  refine ⟨State.illegalCommand { s with ports := { s.ports with commands := rest } }, ?_, ?_⟩
  · rw [step_accept hr hb hc, hw]
  · exact ⟨⟨rfl, rfl, rfl, rfl, rfl, rfl, rfl⟩, ⟨rfl, rfl, rfl, rfl, rfl⟩, rfl, rfl, rfl, rfl, rfl, hr⟩

/-- Settles O1: the eighteen words, decoded. -/
theorem wordsDecodeAsTheMapSays : Obligations.WordsDecodeAsTheMapSays := by
  unfold Obligations.WordsDecodeAsTheMapSays
  decide

/-- Settles O3: a row is hit by the words of its mnemonic and by no other; the 54 are counted. -/
theorem decoderFollowsTheOpcodeMap : Obligations.DecoderFollowsTheOpcodeMap := by
  refine ⟨fun w i h => ?_, fun _ _ => opcodeRow_of_illegal, length_filter_hits_le_one, by decide⟩
  rw [← encode_of_decode h]
  exact opcodeRow_encode i

end

section
/-! PROOFS. The assembler: what a line with a number, with a name, and alone assembles to (R84). -/

namespace Sys2Proof.Machine

open Sys2Proof.Claims

/-! ## The lines that assemble -/

/-- A line assembles exactly when it passes the three checks (R84). -/
theorem assemble_eq_some_iff (l : SourceLine) (i : Instr) : assemble l = some i ↔
    l.wellFormed = true ∧ commandOf l.mnemonic (BitVec.ofNat 3 (operandNumber l.operand)) = i := by
  simp [assemble]

/-- A line with a number: the mnemonic takes an operand, and the number is at most 7 (R84). -/
theorem wellFormed_number (m : Mnemonic) (n : Nat) :
    SourceLine.wellFormed ⟨m, some (.number n)⟩ = (m.takesOperand && decide (n ≤ 7)) := by
  simp [SourceLine.wellFormed, SourceLine.operandPresent, SourceLine.numberFits, SourceLine.symbolBelongs]

/-- A mnemonic whose operand has names takes an operand (R75, R84). -/
theorem takesOperand_of_names {m : Mnemonic} {f : Field} (h : m.names = some f) : m.takesOperand = true := by
  cases m with
  | setrate | setmode | setmux | setrange | readvch | setch => rfl
  | init | getrate | getmode | getmux | getrange | readv => cases h

/-- A line with a name: the name is of the mnemonic's enumeration (R84). -/
theorem wellFormed_symbol (m : Mnemonic) (y : Symbol) :
    SourceLine.wellFormed ⟨m, some (.symbol y)⟩ = decide (m.names = some y.field) := by
  by_cases h : m.names = some y.field
  · simp [SourceLine.wellFormed, SourceLine.operandPresent, SourceLine.numberFits, SourceLine.symbolBelongs, h,
      takesOperand_of_names h]
  · simp [SourceLine.wellFormed, SourceLine.symbolBelongs, h]

/-- A line without operand: the mnemonic takes none (R84). -/
theorem wellFormed_alone (m : Mnemonic) : SourceLine.wellFormed ⟨m, none⟩ = !m.takesOperand := by
  simp [SourceLine.wellFormed, SourceLine.operandPresent, SourceLine.numberFits, SourceLine.symbolBelongs]

/-! ## The commands a mnemonic is assembled to -/

/-- The commands of the mnemonics that take an operand (R75). -/
theorem withOperand_eq (m : Mnemonic) : withOperand m = if m.takesOperand then some (commandOf m) else none := by
  cases m <;> rfl

/-- The commands of the mnemonics that take no operand (R75). -/
theorem withoutOperand_eq (m : Mnemonic) (c : Code) :
    withoutOperand m = if m.takesOperand then none else some (commandOf m c) := by
  cases m <;> rfl

/-- The code of a name, by its enumeration's table, is the name's position in the listing (R104 to R107); a setter
takes the names of its own field and no other command takes one (R84). -/
theorem withName_eq (m : Mnemonic) (y : Symbol) :
    withName m y = if m.names = some y.field then some (commandOf m (symbolCode y)) else none := by
  cases y with
  | rate r => cases m with
    | setrate => cases r <;> rfl
    | _ => rfl
  | mode o => cases m with
    | setmode => cases o <;> rfl
    | _ => rfl
  | mux x => cases m with
    | setmux => cases x <;> rfl
    | _ => rfl
  | range g => cases m with
    | setrange => cases g <;> rfl
    | _ => rfl

/-! ## What a line assembles to -/

/-- A mnemonic with a number (R84). -/
theorem assemble_number (m : Mnemonic) (n : Nat) : assemble ⟨m, some (.number n)⟩ =
    if n ≤ 7 then (withOperand m).map (fun command => command (BitVec.ofNat 3 n)) else none := by
  rw [assemble, wellFormed_number, withOperand_eq]
  by_cases hn : n ≤ 7 <;> by_cases hm : m.takesOperand = true <;> simp [hn, hm, operandNumber]

/-- A mnemonic with a name (R84). -/
theorem assemble_symbol (m : Mnemonic) (y : Symbol) : assemble ⟨m, some (.symbol y)⟩ = withName m y := by
  rw [assemble, wellFormed_symbol, withName_eq]
  simp [operandNumber]

/-- A mnemonic alone (R84). -/
theorem assemble_alone (m : Mnemonic) : assemble ⟨m, none⟩ = withoutOperand m := by
  rw [assemble, wellFormed_alone, withoutOperand_eq m 0#3]
  cases m.takesOperand <;> rfl

/-- A source line of a command: its mnemonic, and its operand as a number (R84). -/
def sourceLineOf (i : Instr) : SourceLine :=
  ⟨i.mnemonic, if i.mnemonic.takesOperand then some (.number (wordArg (encode i)).toNat) else none⟩

/-- A command is its mnemonic with the ARG of its word (R73, R75). -/
theorem commandOf_wordArg (i : Instr) : commandOf i.mnemonic (wordArg (encode i)) = i := by
  cases i with
  | init | getrate | getmode | getmux | getrange | readv => rfl
  | setrate c | setmode c | setmux c | setrange c | readvch c | setch c => revert c; decide

/-- A command's source line assembles to it (R84). -/
theorem assemble_sourceLineOf (i : Instr) : assemble (sourceLineOf i) = some i := by
  unfold sourceLineOf
  split_ifs with h
  · rw [assemble_number, if_pos (Nat.le_of_lt_succ (wordArg (encode i)).isLt), withOperand_eq, if_pos h]
    simp [commandOf_wordArg]
  · rw [assemble_alone, withoutOperand_eq i.mnemonic (wordArg (encode i)), if_neg h, commandOf_wordArg]

end Sys2Proof.Machine

open Sys2Proof Sys2Proof.Machine Sys2Proof.Claims

/-- Settles O5: the three forms of a line, and the line of each command. -/
theorem assemblerReachesEveryCommand : Obligations.AssemblerReachesEveryCommand := by
  refine ⟨assemble_number, assemble_symbol, assemble_alone, fun l => ?_, fun i => ⟨_, assemble_sourceLineOf i⟩, ?_⟩
  · simp [assemble_eq_some_iff]
  · decide

/-- Settles O52: the thirty-two lines, assembled character by character. -/
theorem everyNameAssembles : Obligations.EveryNameAssembles := by
  unfold Obligations.EveryNameAssembles
  decide

end

section
/-! PROOFS. Where the fields stand in CFG, and how a result splits (R79, R81 to R83, R100 to R102, R115). -/

namespace Sys2Proof.Machine

/-- Two bit vectors put together, widened: the OR of the upper one shifted up and the lower one. -/
theorem setWidth_append_eq_or {n m k : Nat} (x : BitVec n) (y : BitVec m) :
    (x ++ y).setWidth k = (x.setWidth k <<< m) ||| y.setWidth k := by
  apply BitVec.eq_of_getLsbD_eq
  intro i hi
  simp only [BitVec.getLsbD_setWidth, BitVec.getLsbD_append, BitVec.getLsbD_or, BitVec.getLsbD_shiftLeft]
  by_cases hm : i < m
  · simp [hm]
  · simp [hm, hi, show i - m < k by omega, BitVec.getLsbD_of_ge y i (by omega)]

/-- CFG put together is the OR of its parts, each shifted to its place (R79). -/
theorem packConfig_eq_or (u : BitVec 1) (x g : Code) (m : BitVec 1) (r : Code) (v : BitVec 5) :
    packConfig u x g m r v =
      (u.setWidth 16 <<< 15) ||| (x.setWidth 16 <<< 12) ||| (g.setWidth 16 <<< 9) ||| (m.setWidth 16 <<< 8) |||
        (r.setWidth 16 <<< 5) ||| v.setWidth 16 :=
  calc packConfig u x g m r v
      = (u ++ x ++ g ++ m ++ r ++ v).setWidth 16 := (BitVec.setWidth_eq _).symm
    _ = _ := by
      rw [setWidth_append_eq_or, setWidth_append_eq_or, setWidth_append_eq_or, setWidth_append_eq_or,
        setWidth_append_eq_or]
      simp only [BitVec.shiftLeft_or_distrib, ← BitVec.shiftLeft_add, Nat.reduceAdd]

/-- A two's-complement result is its upper 14 bits, signed, and its lower three (R83). -/
theorem toInt_eq_millivolts_eighths (r : ResWord) : r.toInt = 8 * resMillivolts r + resEighths r := by
  have hr := r.isLt
  simp only [resMillivolts, resEighths, Config.fracBits, BitVec.toInt_eq_toNat_cond, BitVec.extractLsb_toNat,
    Nat.shiftRight_eq_div_pow, Nat.reduceSub, Nat.reduceAdd, Nat.reducePow]
  omega

/-- The fraction is in eighths (R83). -/
theorem resEighths_lt (r : ResWord) : resEighths r < 8 := (r.extractLsb 2 0).isLt

/-- The integer millivolts are rounded toward minus infinity (R83). -/
theorem resMillivolts_eq (r : ResWord) : resMillivolts r = r.toInt / 8 := by
  have hsplit := toInt_eq_millivolts_eighths r
  have hlt := resEighths_lt r
  omega

/-- The volts are the 8000th part of the result (R115). -/
theorem resVolts_mul (r : ResWord) : resVolts r * 8000 = r.toInt := by
  rw [resVolts]
  norm_num

end Sys2Proof.Machine

open Sys2Proof Sys2Proof.Machine Sys2Proof.Claims

/-- Settles O7: the slices and masks of the four fields, by the codec's laws. -/
theorem fieldsStandWhereTheTableSays : Obligations.FieldsStandWhereTheTableSays :=
  ⟨fun r => ⟨extractField_rate r, extractField_mode r, extractField_mux r, extractField_range r⟩,
    fun r c => ⟨insertField_rate r c, insertField_mode r c, insertField_mux r c, insertField_range r c⟩,
    packConfig_eq_or⟩

/-- Settles O12: the split of a result, its bounds and its scale. -/
theorem resultSplitsIntoMillivoltsAndEighths : Obligations.ResultSplitsIntoMillivoltsAndEighths :=
  fun r => ⟨toInt_eq_millivolts_eighths r, resMillivolts_eq r, resEighths_lt r, resVolts_mul r⟩

/-- Settles O44: the two code tables, row by row. -/
theorem statusAndErrorCodes : Obligations.StatusAndErrorCodes :=
  ⟨rfl, rfl, rfl, rfl, rfl, rfl, rfl, rfl, rfl⟩

end

section
/-! PROOFS. The laws of the field encoder and decoder (R103), of the converter (R111 to R117), and of the channel
mapping and the validity tests (R108 to R110). -/

namespace Sys2Proof.Machine

open Sys2Proof.Claims

/-! ## Insert and extract -/

/-- No bit belongs to two fields (R21). -/
theorem not_inField_of_inField {f g : Field} (h : f ≠ g) {i : Nat}
    (hf : fieldLo f ≤ i ∧ i < fieldLo f + fieldWidth f) :
    ¬ (fieldLo g ≤ i ∧ i < fieldLo g + fieldWidth g) := by
  have hbit := congrArg (fun m => m.getLsbD i) (fieldMask_disjoint h)
  simpa [getLsbD_fieldMask, hf] using hbit

/-- Outside its field insert leaves the word as it is: under any mask the field's mask does not meet. -/
theorem insertField_and_of_disjoint {f : Field} {m : Word} (h : fieldMask f &&& m = 0#16) (r : Word) (c : Code) :
    insertField f r c &&& m = r &&& m := by
  apply BitVec.eq_of_getLsbD_eq
  intro i _
  have hbit := congrArg (fun m => m.getLsbD i) h
  rw [BitVec.getLsbD_and, BitVec.getLsbD_and, getLsbD_insertField]
  split_ifs with hf
  · have hm : m.getLsbD i = false := by simpa [getLsbD_fieldMask, hf] using hbit
    rw [hm, Bool.and_false, Bool.and_false]
  · rfl

/-- Pass-through: bit 15 and bits [4:0] belong to no field (R103 law 3). -/
theorem insertField_undescribed (f : Field) (r : Word) (c : Code) :
    insertField f r c &&& 0x801F#16 = r &&& 0x801F#16 :=
  insertField_and_of_disjoint (by cases f <;> decide) r c

/-- Overwrite: the last code inserted counts (R103 law 4). -/
theorem insertField_insertField_self (f : Field) (r : Word) (c c' : Code) :
    insertField f (insertField f r c) c' = insertField f r c' := by
  apply BitVec.eq_of_getLsbD_eq
  intro i _
  simp only [getLsbD_insertField]
  split_ifs <;> rfl

/-- Commutation: inserts into two fields come in any order (R103 law 5). -/
theorem insertField_comm {f g : Field} (h : f ≠ g) (r : Word) (c d : Code) :
    insertField f (insertField g r d) c = insertField g (insertField f r c) d := by
  apply BitVec.eq_of_getLsbD_eq
  intro i _
  simp only [getLsbD_insertField]
  by_cases hf : fieldLo f ≤ i ∧ i < fieldLo f + fieldWidth f
  · rw [if_pos hf, if_neg (not_inField_of_inField h hf), if_pos hf]
  · rw [if_neg hf, if_neg hf]

/-- Identity: a field's own code inserted changes nothing (R103 law 6). -/
theorem insertField_extractField (f : Field) (r : Word) : insertField f r (extractField f r) = r := by
  apply BitVec.eq_of_getLsbD_eq
  intro i _
  rw [getLsbD_insertField]
  split_ifs with hf
  · rw [getLsbD_extractField, show fieldLo f + (i - fieldLo f) = i by omega,
      decide_eq_true (show i - fieldLo f < fieldWidth f by omega), Bool.true_and]
  · rfl

/-- Locality: insert changes bits of its field only (R103 law 7). -/
theorem insertField_xor_and_not_mask (f : Field) (r : Word) (c : Code) :
    (insertField f r c ^^^ r) &&& ~~~ fieldMask f = 0#16 := by
  have h := insertField_and_of_disjoint (BitVec.and_not_self (x := fieldMask f)) r c
  apply BitVec.eq_of_getLsbD_eq
  intro i _
  rw [BitVec.getLsbD_and, BitVec.getLsbD_xor, Bool.and_xor_distrib_right, ← BitVec.getLsbD_and,
    ← BitVec.getLsbD_and, h, Bool.xor_self, BitVec.getLsbD_zero]

/-! ## The count of a sample -/

/-- The count is the slice d[15:4], signed (R80). -/
theorem count_eq_extractLsb (d : Word) : count d = (d.extractLsb 15 4).toInt := rfl

/-- The count is the raw sample divided by 16, rounded toward minus infinity (R111). -/
theorem count_eq_div (d : Word) : count d = d.toInt / 16 := by
  have hd := d.isLt
  rw [count_eq_extractLsb]
  simp only [BitVec.toInt_eq_toNat_cond, BitVec.extractLsb_toNat, Nat.shiftRight_eq_div_pow, Nat.reduceSub,
    Nat.reduceAdd, Nat.reducePow]
  omega

/-- The count is the raw sample shifted right arithmetically by four (R111). -/
theorem count_eq_sshiftRight (d : Word) : count d = (d.sshiftRight 4).toInt := by
  rw [BitVec.toInt_sshiftRight, Int.shiftRight_eq_div_pow, count_eq_div]
  rfl

/-- The low four bits of a raw sample do not count (R111). -/
theorem count_congr {d d' : Word} (h : d.extractLsb 15 4 = d'.extractLsb 15 4) : count d = count d' := by
  rw [count_eq_extractLsb, count_eq_extractLsb, h]

/-- The count is 0 for the zero sample only. -/
theorem count_eq_zero_iff (d : Word) : count d = 0 ↔ d.extractLsb 15 4 = 0#12 := by
  rw [count_eq_extractLsb, ← BitVec.toInt_inj, BitVec.toInt_zero]

/-! ## The scale -/

/-- The scale table agrees with the powers of two and the factor 3 it is made from (R112). -/
theorem scaleK_eq {g : Code} (h : g.toNat ≤ 5) : scaleK g = some (eighthsPerCount g) := by
  revert g
  decide

/-- A scale is positive and at most 24 (R112). -/
theorem eighthsPerCount_bounds {g : Code} (h : g.toNat ≤ 5) : 0 < eighthsPerCount g ∧ eighthsPerCount g ≤ 24 := by
  revert g
  decide

/-- From a range 1 to 4 to the next the scale halves (R117). -/
theorem eighthsPerCount_halves {g : Code} (h1 : 1 ≤ g.toNat) (h4 : g.toNat ≤ 4) :
    eighthsPerCount g = 2 * eighthsPerCount (g + 1#3) := by
  revert g
  decide

/-- The scales of the ranges 0 to 2 are whole millivolts (R117). -/
theorem eight_dvd_eighthsPerCount {g : Code} (h : g.toNat ≤ 2) : 8 ∣ eighthsPerCount g := by
  revert g
  decide

/-! ## The converter -/

/-- What the converter gives, in terms of the exact product (R113). -/
theorem mvq3_eq_scaled (d : Word) {g : Code} (h : g.toNat ≤ 5) : mvq3 d g = some (scaled d (eighthsPerCount g)) := by
  rw [mvq3, scaleK_eq h, Option.map_some]

/-- Where the converter has a value, the range code is not reserved (R112). -/
theorem legal_of_mvq3 {d : Word} {g : Code} {n : ResWord} (h : mvq3 d g = some n) : g.toNat ≤ 5 := by
  by_contra hg
  simp [mvq3_reserved d (Nat.lt_of_not_le hg)] at h

/-- The converter's value is count times scale, exactly (R113, R114). -/
theorem toInt_of_mvq3 {d : Word} {g : Code} {n : ResWord} (h : mvq3 d g = some n) :
    n.toInt = count d * eighthsPerCount g := by
  have hg := legal_of_mvq3 h
  obtain ⟨hpos, h24⟩ := eighthsPerCount_bounds hg
  obtain rfl : scaled d (eighthsPerCount g) = n := Option.some.inj ((mvq3_eq_scaled d hg).symm.trans h)
  exact toInt_scaled d _ hpos.le h24

/-- A value lies between the products of the extreme counts, and these in the bounds of range 0 (R114). -/
theorem bounds_of_mvq3 {d : Word} {g : Code} {n : ResWord} (h : mvq3 d g = some n) :
    -49152 ≤ n.toInt ∧ n.toInt ≤ 49128 ∧ -2048 * eighthsPerCount g ≤ n.toInt ∧
      n.toInt ≤ 2047 * eighthsPerCount g := by
  obtain ⟨hlo, hhi⟩ := count_bounds d
  obtain ⟨hpos, h24⟩ := eighthsPerCount_bounds (legal_of_mvq3 h)
  have hmin : -2048 * eighthsPerCount g ≤ n.toInt :=
    toInt_of_mvq3 h ▸ Int.mul_le_mul_of_nonneg_right hlo hpos.le
  have hmax : n.toInt ≤ 2047 * eighthsPerCount g :=
    toInt_of_mvq3 h ▸ Int.mul_le_mul_of_nonneg_right hhi hpos.le
  omega

/-- A sample of a given count has the product of it as its value. -/
theorem exists_mvq3_of_count {d : Word} {x : Int} (hd : count d = x) {g : Code} (hg : g.toNat ≤ 5) :
    ∃ n, mvq3 d g = some n ∧ n.toInt = x * eighthsPerCount g := by
  obtain ⟨n, hn⟩ := mvq3_legal d hg
  exact ⟨n, hn, hd ▸ toInt_of_mvq3 hn⟩

/-- The converter depends on d[15:4] only (R117). -/
theorem mvq3_congr {d d' : Word} (h : d.extractLsb 15 4 = d'.extractLsb 15 4) (g : Code) : mvq3 d g = mvq3 d' g := by
  rw [mvq3, mvq3, show scaled d = scaled d' from funext fun k => by rw [scaled, scaled, count_congr h]]

/-- A value has the sign of its count, and is 0 for the zero sample only (R117). -/
theorem sign_of_mvq3 {d : Word} {g : Code} {n : ResWord} (h : mvq3 d g = some n) :
    (0 < n.toInt ↔ 0 < count d) ∧ (n.toInt < 0 ↔ count d < 0) ∧ (n.toInt = 0 ↔ d.extractLsb 15 4 = 0#12) := by
  obtain ⟨hpos, _⟩ := eighthsPerCount_bounds (legal_of_mvq3 h)
  rw [toInt_of_mvq3 h, ← count_eq_zero_iff]
  exact ⟨mul_pos_iff_of_pos_right hpos, by rw [mul_neg_iff]; omega, mul_eq_zero_iff_right hpos.ne'⟩

/-- The converter is strictly monotone in the count (R117). -/
theorem mvq3_strictMono {d d' : Word} {g : Code} {n n' : ResWord} (h : mvq3 d g = some n) (h' : mvq3 d' g = some n')
    (hlt : count d < count d') : n.toInt < n'.toInt := by
  rw [toInt_of_mvq3 h, toInt_of_mvq3 h']
  exact Int.mul_lt_mul_of_pos_right hlt (eighthsPerCount_bounds (legal_of_mvq3 h)).1

/-- Where one scale is a multiple of another, so are the values (R117). -/
theorem mvq3_ratio {d : Word} {g g' : Code} {n n' : ResWord} {x : Int} (h : mvq3 d g = some n)
    (h' : mvq3 d g' = some n') (hx : eighthsPerCount g = x * eighthsPerCount g') : n.toInt = x * n'.toInt := by
  rw [toInt_of_mvq3 h, toInt_of_mvq3 h', hx, mul_left_comm]

/-- A value is a multiple of its scale (R117). -/
theorem eighthsPerCount_dvd_mvq3 {d : Word} {g : Code} {n : ResWord} (h : mvq3 d g = some n) :
    eighthsPerCount g ∣ n.toInt :=
  toInt_of_mvq3 h ▸ Int.dvd_mul_left (count d) (eighthsPerCount g)

/-- A multiple of eight eighths has no fraction (R83). -/
theorem fraction_eq_zero_of_dvd {r : ResWord} (h : 8 ∣ r.toInt) : r.extractLsb 2 0 = 0#3 := by
  have hsplit := toInt_eq_millivolts_eighths r
  have hlt := resEighths_lt r
  have hzero : resEighths r = 0 := by omega
  exact BitVec.eq_of_toNat_eq hzero

/-! ## The shift-and-add form -/

/-- Scales add up: the ground of the one addition of R116. -/
theorem scaled_add (d : Word) (k l : Int) : scaled d (k + l) = scaled d k + scaled d l := by
  rw [scaled, Int.mul_add, BitVec.ofInt_add]
  rfl

/-- The sample with its sign extended is the sample at scale 1. -/
theorem signExtend_eq_scaled (d : Word) : (sampleOf d).signExtend 17 = scaled d 1 := by
  rw [scaled, mul_one]
  rfl

/-- A shift up is a scale by a power of two (R116). -/
theorem scaled_shiftLeft (d : Word) (k : Int) (n : Nat) : scaled d k <<< n = scaled d (k * 2 ^ n) := by
  have hpow : BitVec.twoPow 17 n = BitVec.ofInt 17 (2 ^ n) :=
    BitVec.eq_of_toNat_eq (by rw [BitVec.toNat_twoPow, ← BitVec.toNat_ofNat, ← BitVec.ofInt_natCast, Nat.cast_pow,
      Nat.cast_ofNat])
  rw [BitVec.shiftLeft_eq_mul_twoPow, hpow, scaled, scaled, ← BitVec.ofInt_mul, mul_assoc]

/-- The shift-and-add form is the product: its branches are the entries of the scale table (R116). -/
theorem mvq3Shift_eq_mvq3 (d : Word) (g : Code) : mvq3Shift d g = mvq3 d g := by
  unfold mvq3Shift mvq3 scaleK
  simp only [signExtend_eq_scaled, scaled_shiftLeft, ← scaled_add]
  split_ifs <;> rfl

/-! ## The channel mapping -/

/-- se_encode puts the four channels behind the four pairs (R108). -/
theorem seEncode_toNat {k : Code} (h : k.toNat ≤ 3) : (seEncode k).toNat = 4 + k.toNat := by
  revert k
  decide

/-- se_decode recovers the channel of a code that se_encode gives (R109). -/
theorem seDecode_seEncode (k : Code) : seDecode (seEncode k) = some (k.extractLsb 1 0) := by
  revert k
  decide

/-- A differential pair has no channel (R109). -/
theorem seDecode_pair {x : Code} (h : x.toNat ≤ 3) : seDecode x = none := by
  revert x
  decide

end Sys2Proof.Machine

open Sys2Proof Sys2Proof.Machine Sys2Proof.Claims

/-- Settles O6: the seven laws, each by the bits insert and extract give. -/
theorem insertExtractLaws : Obligations.InsertExtractLaws :=
  fun f _ r c d hfg hc _ => ⟨extractField_insertField f r c hc, extractField_insertField_of_ne hfg r c,
    insertField_undescribed f r c, fun c' _ => insertField_insertField_self f r c c', insertField_comm hfg r c d,
    insertField_extractField f r, insertField_xor_and_not_mask f r c⟩

/-- Settles O8: the three forms, the bounds and the low bits for every sample; the eight corner values, evaluated. -/
theorem countHasThreeEqualForms : Obligations.CountHasThreeEqualForms :=
  ⟨fun d => ⟨count_eq_extractLsb d, count_eq_sshiftRight d, count_eq_div d, count_bounds d⟩,
    fun _ _ => count_congr, by decide⟩

/-- Settles O9: the value and its bounds; the extremes are those of the count; no scale for the reserved codes. -/
theorem conversionIsExact : Obligations.ConversionIsExact := by
  refine ⟨fun d g hg => ?_, fun g hg => ⟨?_, ?_⟩, fun d g => mvq3_reserved d⟩
  · obtain ⟨n, hn⟩ := mvq3_legal d hg
    exact ⟨n, hn, toInt_of_mvq3 hn, bounds_of_mvq3 hn⟩
  · exact exists_mvq3_of_count (by decide) hg
  · exact exists_mvq3_of_count (by decide) hg

/-- Settles O10: the shifts and the addition of each range are those of the model's own shift-and-add converter. -/
theorem shiftAndAddFormIsTheProduct : Obligations.ShiftAndAddFormIsTheProduct :=
  fun d => have h := mvq3Shift_eq_mvq3 d
    ⟨(h 0#3).symm, (h 1#3).symm, (h 2#3).symm, (h 3#3).symm, (h 4#3).symm, (h 5#3).symm, h⟩

/-- Settles O11: the laws of the product of a count and a positive scale. -/
theorem converterLaws : Obligations.ConverterLaws := by
  refine ⟨fun _ _ g hd => mvq3_congr hd g, fun _ _ _ => sign_of_mvq3, fun _ _ _ _ _ => mvq3_strictMono,
    fun _ _ _ _ h1 h4 h h' => ?halving, fun _ _ _ h h' => ?threefold, fun _ _ _ => eighthsPerCount_dvd_mvq3,
    fun _ _ _ hg h => ?fraction⟩
  case halving => exact mvq3_ratio h h' (eighthsPerCount_halves h1 h4)
  case threefold => exact mvq3_ratio h h' (by decide)
  case fraction => exact fraction_eq_zero_of_dvd ((eight_dvd_eighthsPerCount hg).trans (eighthsPerCount_dvd_mvq3 h))

/-- Settles O13: the mapping and the tests, code by code. -/
theorem channelsMapToMuxCodes : Obligations.ChannelsMapToMuxCodes :=
  ⟨fun k hk => ⟨seEncode_toNat hk, seDecode_seEncode k⟩, fun _ => seDecode_pair,
    fun _ => ⟨rfl, rfl, decide_eq_true_iff, decide_eq_true_iff, decide_eq_true_iff⟩⟩

end

section
/-! PROOFS. The configuration commands: every outcome of a read-modify-write and of a getter, and what a getter returns
behind a setter (R130 to R140). -/

namespace Sys2Proof.Machine

open Sys2Proof.Claims

/-! ## How a command ends -/

section
variable {s u : State}

/-- A completion of a command that has given no response before. -/
theorem completed_respond (h : u.ports.responses = s.ports.responses) (st : BitVec 3) (e : ErrWord) (r : ResWord)
    (v : Bool) : s.Completed (u.respond st e r v) st e r v :=
  ⟨rfl, rfl, rfl, rfl, rfl, rfl, congrArg (List.cons _) h⟩

/-- An operand outside its enumeration is refused, and nothing but CMDR and the response registers changes (R202). -/
theorem refusesOperand {i : Instr} (hb : s.busy = false) (hd : i.inDomain = false) : RefusesOperand i s :=
  ⟨_, exec_operand hb hd, completed_respond rfl .., ⟨rfl, rfl, rfl, rfl, rfl⟩, rfl, rfl, rfl, rfl, rfl⟩

/-- A command that completes OK has its operand inside its enumeration. -/
theorem inDomain_of_ok {i : Instr} {t : State} (hb : s.busy = false) (ht : exec i s = .next t)
    (hst : t.status = 0#3) : i.inDomain = true := by
  by_contra hd
  rw [exec_operand hb (Bool.eq_false_of_not_eq_true hd)] at ht
  cases ht
  cases hst

/-- A getter's completion is one response to an otherwise untouched state. -/
theorem getterEnd_eq_respond (u : State) (f : Field) (c : Code) :
    ∃ st r v, u.getterEnd f c = u.respond st 0#2 r v := by
  rcases u.getterEnd_cases f c with ⟨_, h⟩ | ⟨_, h⟩ <;> exact ⟨_, _, _, h⟩

/-- A getter completes OK with a code of its field's enumeration (R135 to R138). -/
theorem completed_getterEnd {f : Field} {c : Code} (hv : valid f c = true)
    (h : u.ports.responses = s.ports.responses) : s.Completed (u.getterEnd f c) 0#3 0#2 (c.setWidth 17) true := by
  rw [State.getterEnd, if_pos hv]
  exact completed_respond h ..

/-- A getter completes with RSVD_CODE on a code outside its field's enumeration (R205). -/
theorem completed_getterEnd_reserved {f : Field} {c : Code} (hv : ¬ valid f c = true)
    (h : u.ports.responses = s.ports.responses) : s.Completed (u.getterEnd f c) 5#3 0#2 0#17 false := by
  rw [State.getterEnd, if_neg hv]
  exact completed_respond h ..

end

/-! ## A command whose first transaction reads CONFIG -/

/-- Command i is accepted, its read of CONFIG is issued, and an answer to it is taken. -/
def State.configAsked (s : State) (i : Instr) : State :=
  { s with
    busy := true
    cmdr := encode i
    seq := .trans 1
    ports := { s.ports with
      answers := s.ports.answers.tail
      draws := s.ports.draws + 1
      requests := .read .config :: s.ports.requests } }

/-- The model comes to that state by acceptance, a request and an answer. -/
theorem configAsked_eq (s : State) (i : Instr) :
    ((s.accept (encode i)).request 1 (.read .config)).drawn = s.configAsked i := rfl

/-- The read of CONFIG is the first request. -/
theorem issued_configAsked (s : State) (i : Instr) : s.Issued (s.configAsked i) [.read .config] :=
  State.Issued.request (u := s.accept (encode i)) ⟨rfl, rfl, rfl, rfl, rfl⟩ 1 _

@[simp] theorem answerAt_configAsked (s : State) (i : Instr) (k : Nat) :
    (s.configAsked i).answerAt k = s.answerAt (k + 1) := by
  simp [← configAsked_eq]

/-- Command i, from s, runs a text that opens with the action a, a read of CONFIG. -/
structure State.OpensWithRead (s : State) (i : Instr) (a : Action) (rest : List Action) : Prop where
  reads : a.transaction = some .readConfig
  runs : exec i s = .next (runFrom (a :: rest) 1 (s.accept (encode i))).state

section
variable {s t : State} {i : Instr} {a : Action} {rest : List Action} {e : BusErr} {v : Word}

/-- An action that reads CONFIG asks for CONFIG. -/
theorem requestOf_of_readConfig (ha : a.transaction = some .readConfig) (u : State) :
    requestOf a u = some (.read .config) := by
  cases a with
  | readT | get _ => rfl
  | write _ _ | sample | cacheRange _ | markInited => cases ha

/-- A failed read of CONFIG leaves everything as it was. -/
theorem failed_of_readConfig (ha : a.transaction = some .readConfig) (v : Word) (u : State) : a.failed v u = u := by
  cases a with
  | readT | get _ => rfl
  | write _ _ | sample | cacheRange _ | markInited => cases ha

/-- The read of CONFIG fails: BUS_ERR. -/
theorem State.OpensWithRead.exec_err (h : s.OpensWithRead i a rest) (h0 : s.answerAt 0 = .err e v) :
    exec i s = .next ((s.configAsked i).failBus e) := by
  rw [h.runs, runFrom_err (requestOf_of_readConfig h.reads _) (s := s.accept (encode i)) h0,
    failed_of_readConfig h.reads, Run.state_ended, configAsked_eq]

/-- The read of CONFIG is not answered: the command waits. -/
theorem State.OpensWithRead.exec_silent (h : s.OpensWithRead i a rest) (h0 : s.answerAt 0 = .silent) :
    exec i s = .next (s.configAsked i) := by
  rw [h.runs, runFrom_silent (requestOf_of_readConfig h.reads _) (s := s.accept (encode i)) h0, Run.state_ended,
    configAsked_eq]

/-- The first outcome of such a command: the read fails. -/
theorem State.OpensWithRead.fails (h : s.OpensWithRead i a rest) (h0 : s.answerAt 0 = .err e v) :
    ∃ t, exec i s = .next t ∧ s.Completed t 1#3 (busErrCode e) 0#17 false ∧ s.Issued t [.read .config] ∧
      s.Unchanged t ∧ t.cmdr = encode i :=
  ⟨_, h.exec_err h0, completed_respond rfl .., (issued_configAsked s i).of_ports rfl, ⟨rfl, rfl, rfl, rfl, rfl⟩, rfl⟩

/-- The second outcome of such a command: the read is not answered. -/
theorem State.OpensWithRead.waits (h : s.OpensWithRead i a rest) (h0 : s.answerAt 0 = .silent) :
    ∃ t, exec i s = .next t ∧ s.Waits t 1 ∧ s.Issued t [.read .config] ∧ s.Unchanged t ∧ t.cmdr = encode i :=
  ⟨_, h.exec_silent h0, ⟨rfl, rfl, rfl, rfl, rfl, rfl, rfl⟩, issued_configAsked s i, ⟨rfl, rfl, rfl, rfl, rfl⟩, rfl⟩

/-- Such a command that completes without BUS_ERR has had its read answered with success. -/
theorem State.OpensWithRead.answered (h : s.OpensWithRead i a rest) (ht : exec i s = .next t) (hb : t.busy = false)
    (hst : t.status ≠ 1#3) : ∃ v, s.answerAt 0 = .ok v := by
  cases h0 : s.answerAt 0 with
  | ok v => exact ⟨v, rfl⟩
  | err e v =>
    cases ht.symm.trans (h.exec_err h0)
    exact absurd rfl hst
  | silent =>
    cases ht.symm.trans (h.exec_silent h0)
    cases hb

end

/-! ## The getters -/

section
variable {s t : State} {f : Field} {v : Word}

/-- A getter's text is one read. -/
theorem opensWithRead_getCommand (hb : s.busy = false) (f : Field) : s.OpensWithRead (getCommand f) (.get f) [] := by
  refine ⟨rfl, ?_⟩
  cases f <;> exact exec_state hb rfl (by simp [getCommand])

/-- A getter whose read succeeds ends on the code that stands in CFG. -/
theorem exec_getCommand_ok (hb : s.busy = false) (h0 : s.answerAt 0 = .ok v) :
    exec (getCommand f) s = .next ((s.configAsked (getCommand f)).getterEnd f (extractField f s.cfg)) := by
  rw [(opensWithRead_getCommand hb f).runs, runFrom_get_ok (s := s.accept _) h0, State.configRead,
    extractField_mergeFields, Run.state_ended]
  rfl

/-- Every outcome of a getter, where `done` holds of its end on the code that stands in CFG (R135 to R138). -/
theorem getterOutcomes {done : State → State → Prop} (hb : s.busy = false)
    (hdone : done s ((s.configAsked (getCommand f)).getterEnd f (extractField f s.cfg))) :
    GetterOutcomes (getCommand f) done s := by
  have h := opensWithRead_getCommand hb f
  refine ⟨fun e v h0 => ?_, h.waits, fun v h0 => ?_⟩
  · obtain ⟨t, ht, hcompleted, hissued, hunchanged, -⟩ := h.fails h0
    exact ⟨t, ht, hcompleted, hissued, hunchanged⟩
  · refine ⟨_, exec_getCommand_ok hb h0, hdone, ?_⟩
    obtain ⟨st, r, v, hend⟩ := getterEnd_eq_respond (s.configAsked (getCommand f)) f (extractField f s.cfg)
    rw [hend]
    exact ⟨(issued_configAsked s _).of_ports rfl, ⟨rfl, rfl, rfl, rfl, rfl⟩, rfl⟩

/-- Every outcome of a getter of rate, mode or mux: where the read succeeds, the field's code (R135 to R137). -/
theorem getterOutcomes_ok (hb : s.busy = false) (hf : f ≠ .range) :
    GetterOutcomes (getCommand f) (fun s t => s.Completed t 0#3 0#2 ((extractField f s.cfg).setWidth 17) true) s :=
  getterOutcomes hb (completed_getterEnd (valid_extractField hf s.cfg) rfl)

/-- Every outcome of a getter changes nothing but CMDR and the response registers (R38). -/
theorem exec_getCommand_unchanged (hb : s.busy = false) (ht : exec (getCommand f) s = .next t) : s.Unchanged t := by
  obtain ⟨herr, hsilent, hok⟩ := getterOutcomes (f := f) (done := fun _ _ => True) hb trivial
  have hunchanged : ∃ u, exec (getCommand f) s = .next u ∧ s.Unchanged u := by
    cases h0 : s.answerAt 0 with
    | err e v => exact (herr e v h0).imp fun _ ⟨hu, _, _, h⟩ => ⟨hu, h⟩
    | silent => exact (hsilent h0).imp fun _ ⟨hu, _, _, h, _⟩ => ⟨hu, h⟩
    | ok v => exact (hok v h0).imp fun _ ⟨hu, _, _, h, _⟩ => ⟨hu, h⟩
  obtain ⟨u, hu, h⟩ := hunchanged
  cases ht.symm.trans hu
  exact h

/-- Getters, one after the other, leave the block idle, and CFG and CACHED_RANGE as they were (R140). -/
theorem runsGetters_unchanged {between : List Field} (hb : s.busy = false) (h : RunsGetters between s t) :
    t.busy = false ∧ t.cfg = s.cfg ∧ t.cachedRange = s.cachedRange := by
  induction between generalizing s with
  | nil =>
    cases h
    exact ⟨hb, rfl, rfl⟩
  | cons g rest ih =>
    obtain ⟨u, hu, hbu, hrest⟩ := h
    obtain ⟨hcfg, -, -, hrange, -⟩ := exec_getCommand_unchanged hb hu
    obtain ⟨hbt, hcfg', hrange'⟩ := ih hbu hrest
    exact ⟨hbt, hcfg'.trans hcfg, hrange'.trans hrange⟩

/-- A getter that completes without BUS_ERR has ended on the code that stands in CFG. -/
theorem exec_getCommand_completed (hb : s.busy = false) (ht : exec (getCommand f) s = .next t) (hbt : t.busy = false)
    (hst : t.status ≠ 1#3) : ∃ u : State, t = u.getterEnd f (extractField f s.cfg) := by
  obtain ⟨v, h0⟩ := (opensWithRead_getCommand hb f).answered ht hbt hst
  rw [exec_getCommand_ok hb h0] at ht
  cases ht
  exact ⟨_, rfl⟩

/-- The response of a getter depends on its field and on the code read only. -/
theorem getterEnd_response (s u : State) (f : Field) (c : Code) :
    (s.getterEnd f c).status = (u.getterEnd f c).status ∧ (s.getterEnd f c).res = (u.getterEnd f c).res ∧
      (s.getterEnd f c).resValid = (u.getterEnd f c).resValid := by
  unfold State.getterEnd
  split <;> exact ⟨rfl, rfl, rfl⟩

end

/-! ## One field of CFG set -/

/-- From s to t, CFG[14:5] is as if the code c had been inserted in the field f (R26, R130). -/
def State.SetsField (s t : State) (f : Field) (c : Code) : Prop :=
  t.cfg.extractLsb 14 5 = (insertField f s.cfg c).extractLsb 14 5

/-- A slice outside a field is left by insert. -/
theorem extractLsb_insertField {f : Field} {hi lo : Nat} (hle : lo ≤ hi)
    (hout : hi < fieldLo f ∨ fieldLo f + fieldWidth f ≤ lo) (r : Word) (c : Code) :
    (insertField f r c).extractLsb hi lo = r.extractLsb hi lo := by
  apply BitVec.eq_of_getLsbD_eq
  intro i hi
  rw [BitVec.getLsbD_extractLsb, BitVec.getLsbD_extractLsb, getLsbD_insertField, if_neg (by omega)]

section
variable {s t : State} {f g : Field} {c : Code}

/-- The field set holds the code. -/
theorem State.SetsField.field (h : s.SetsField t f c) (hc : c.toNat < 2 ^ fieldWidth f) : extractField f t.cfg = c := by
  rw [extractField_of_sameFields h, extractField_insertField f s.cfg c hc]

/-- Another field is as it was. -/
theorem State.SetsField.other (h : s.SetsField t f c) (hg : f ≠ g) : extractField g t.cfg = extractField g s.cfg := by
  rw [extractField_of_sameFields h, extractField_insertField_of_ne hg]

/-- A slice of CFG[14:5] outside the field is as it was. -/
theorem State.SetsField.slice (h : s.SetsField t f c) {hi lo : Nat}
    (hout : (5 ≤ lo ∧ lo ≤ hi ∧ hi ≤ 14) ∧ (hi < fieldLo f ∨ fieldLo f + fieldWidth f ≤ lo)) :
    t.cfg.extractLsb hi lo = s.cfg.extractLsb hi lo := by
  obtain ⟨⟨hlo, hle, hhi⟩, hout⟩ := hout
  rw [extractLsb_of_sameFields h hi lo hlo hhi hle, extractLsb_insertField hle hout]

end

/-! ## Every outcome of a read-modify-write -/

/-- The read of command i's read-modify-write has succeeded with the draw a, and T holds the word read. -/
def State.configHeld (s : State) (i : Instr) (a : Word) : State := (s.configAsked i).withT (s.configRead a)

/-- The write of the field f with the code c is issued too, and an answer to it is taken. -/
def State.writeAsked (s : State) (i : Instr) (f : Field) (c : Code) (a : Word) : State :=
  { s with
    busy := true
    cmdr := encode i
    t := s.configRead a
    seq := .trans 2
    ports := { s.ports with
      answers := s.ports.answers.tail.tail
      draws := s.ports.draws + 1 + 1
      requests := .writeConfig (insertField f (s.configRead a) c) :: .read .config :: s.ports.requests } }

/-- The model comes to that state by the second request and its answer. -/
theorem writeAsked_eq (s : State) (i : Instr) (f : Field) (c : Code) (a : Word) :
    ((s.configHeld i a).request 2 (.writeConfig (insertField f (s.configHeld i a).t c))).drawn =
      s.writeAsked i f c a := rfl

/-- Both have succeeded, with the draws a and b; CACHED_RANGE becomes `range`, and the command completes OK. -/
def State.rmwDone (s : State) (i : Instr) (f : Field) (c : Code) (range : Option Code) (a b : Word) : State :=
  State.completeOk
    { s.writeAsked i f c a with cfg := mergeFields (insertField f (s.configRead a) c) b, cachedRange := range }

/-- Command i, from s, is the read-modify-write of the field f with the code c; what is left of its text behind the
write makes CACHED_RANGE `range`, and completes OK (R130, R134). -/
structure State.RunsRmw (s : State) (i : Instr) (f : Field) (c : Code) (rest : List Action) (range : Option Code) :
    Prop where
  runs : exec i s = .next (runFrom (.readT :: .write f c :: rest) 1 (s.accept (encode i))).state
  ends : ∀ n (u : State), u.cachedRange = s.cachedRange →
    runFrom rest n u = .ended (State.completeOk { u with cachedRange := range })

section
variable {s t u : State} {i j : Instr} {f : Field} {c : Code} {rest : List Action} {range : Option Code} {a b : Word}
  {e : BusErr} {v : Word}

theorem issued_writeAsked (s : State) (i : Instr) (f : Field) (c : Code) (a : Word) :
    s.Issued (s.writeAsked i f c a) [.writeConfig (insertField f (s.configRead a) c), .read .config] :=
  State.Issued.request (u := s.configHeld i a) ((issued_configAsked s i).of_ports rfl) 2 _

theorem State.RunsRmw.opensWithRead (h : s.RunsRmw i f c rest range) :
    s.OpensWithRead i .readT (.write f c :: rest) := ⟨rfl, h.runs⟩

/-- The read succeeds: the command goes on to its write. -/
theorem State.RunsRmw.exec_read_ok (h : s.RunsRmw i f c rest range) (h0 : s.answerAt 0 = .ok a) :
    exec i s = .next (runFrom (.write f c :: rest) 2 (s.configHeld i a)).state := by
  rw [h.runs, runFrom_readT_ok (s := s.accept (encode i)) h0]
  rfl

/-- The answer to the write is the second one. -/
theorem answerAt_configHeld (s : State) (i : Instr) (a : Word) : (s.configHeld i a).answerAt 0 = s.answerAt 1 := by
  simp [State.configHeld]

/-- The write fails: CFG is torn, BUS_ERR. -/
theorem State.RunsRmw.exec_write_err (h : s.RunsRmw i f c rest range) (h0 : s.answerAt 0 = .ok a)
    (h1 : s.answerAt 1 = .err e v) : exec i s = .next (((s.writeAsked i f c a).configTorn v).failBus e) := by
  rw [h.exec_read_ok h0, runFrom_err rfl ((answerAt_configHeld s i a).trans h1), Run.state_ended, Action.failed,
    writeAsked_eq]

/-- The write is not answered: the command waits. -/
theorem State.RunsRmw.exec_write_silent (h : s.RunsRmw i f c rest range) (h0 : s.answerAt 0 = .ok a)
    (h1 : s.answerAt 1 = .silent) : exec i s = .next (s.writeAsked i f c a) := by
  rw [h.exec_read_ok h0, runFrom_silent rfl ((answerAt_configHeld s i a).trans h1), Run.state_ended, writeAsked_eq]

/-- Both succeed: CFG and CACHED_RANGE are written, and the command completes OK. -/
theorem State.RunsRmw.exec_ok (h : s.RunsRmw i f c rest range) (h0 : s.answerAt 0 = .ok a) (h1 : s.answerAt 1 = .ok b) :
    exec i s = .next (s.rmwDone i f c range a b) := by
  rw [h.exec_read_ok h0, runFrom_write_ok ((answerAt_configHeld s i a).trans h1)]
  have hends := h.ends 3 ((s.writeAsked i f c a).configWritten (insertField f (s.configRead a) c) b) rfl
  exact congrArg (fun r => Host.Outcome.next r.state) hends

/-- The word read: CFG[14:5], and six drawn bits (R55). -/
theorem configRead_eq (s : State) (a : Word) :
    s.configRead a = (s.cfg &&& 0x7FE0#16) ||| (a &&& 0x801F#16) := rfl

/-- Every outcome of a read-modify-write (R130). -/
theorem State.RunsRmw.outcomes {range : State → Option Code} (h : s.RunsRmw i f c rest (range s)) :
    RmwOutcomes i (fun w => insertField f w c) range s := by
  refine ⟨fun e v => h.opensWithRead.fails, h.opensWithRead.waits, fun a e v h0 h1 => ?_, fun a h0 h1 => ?_,
    fun a b h0 h1 => ?_⟩
  · refine ⟨_, h.exec_write_err h0 h1, completed_respond rfl .., ?_, ?_, rfl, ⟨rfl, rfl, rfl⟩, rfl⟩
    · exact (issued_writeAsked s i f c a).of_ports rfl
    · exact configRead_eq s a
  · refine ⟨_, h.exec_write_silent h0 h1, ⟨rfl, rfl, rfl, rfl, rfl, rfl, rfl⟩, ?_, ?_, rfl, ⟨rfl, rfl, rfl⟩, rfl⟩
    · exact issued_writeAsked s i f c a
    · exact configRead_eq s a
  · refine ⟨_, h.exec_ok h0 h1, completed_respond rfl .., ?_, ?_, ?_, rfl, rfl, rfl, rfl⟩
    · exact (issued_writeAsked s i f c a).of_ports rfl
    · exact configRead_eq s a
    · exact mergeFields_sameFields _ _

/-- A read-modify-write that is done has set its field. -/
theorem setsField_rmwDone (s : State) (i : Instr) (f : Field) (c : Code) (range : Option Code) (a b : Word) :
    s.SetsField (s.rmwDone i f c range a b) f c :=
  (mergeFields_sameFields _ b).trans (insertField_sameFields (mergeFields_sameFields s.cfg a) f c)

/-- A read-modify-write whose two transactions succeed sets its field, and CACHED_RANGE. -/
theorem State.RunsRmw.sets (h : s.RunsRmw i f c rest range) (h0 : s.answerAt 0 = .ok a) (h1 : s.answerAt 1 = .ok b) :
    ∃ t, exec i s = .next t ∧ s.SetsField t f c ∧ t.cachedRange = range :=
  ⟨_, h.exec_ok h0 h1, setsField_rmwDone s i f c range a b, rfl⟩

/-- A read-modify-write that completes OK has set its field, and CACHED_RANGE. -/
theorem State.RunsRmw.completed (h : s.RunsRmw i f c rest range) (ht : exec i s = .next t) (hb : t.busy = false)
    (hst : t.status = 0#3) : s.SetsField t f c ∧ t.cachedRange = range := by
  obtain ⟨a, h0⟩ := h.opensWithRead.answered ht hb (by simp [hst])
  cases h1 : s.answerAt 1 with
  | ok b =>
    cases ht.symm.trans (h.exec_ok h0 h1)
    exact ⟨setsField_rmwDone s i f c range a b, rfl⟩
  | err e v =>
    cases ht.symm.trans (h.exec_write_err h0 h1)
    cases hst
  | silent =>
    cases ht.symm.trans (h.exec_write_silent h0 h1)
    cases hb

/-- Two commands that are the same read-modify-write leave the same state but for CMDR, on every path. -/
theorem State.RunsRmw.eq_but_cmdr (h : s.RunsRmw i f c rest range) (h' : s.RunsRmw j f c rest range)
    (ht : exec i s = .next t) (hu : exec j s = .next u) : u = { t with cmdr := u.cmdr } := by
  cases h0 : s.answerAt 0 with
  | err e v =>
    cases ht.symm.trans (h.opensWithRead.exec_err h0)
    cases hu.symm.trans (h'.opensWithRead.exec_err h0)
    rfl
  | silent =>
    cases ht.symm.trans (h.opensWithRead.exec_silent h0)
    cases hu.symm.trans (h'.opensWithRead.exec_silent h0)
    rfl
  | ok a =>
    cases h1 : s.answerAt 1 with
    | err e v =>
      cases ht.symm.trans (h.exec_write_err h0 h1)
      cases hu.symm.trans (h'.exec_write_err h0 h1)
      rfl
    | silent =>
      cases ht.symm.trans (h.exec_write_silent h0 h1)
      cases hu.symm.trans (h'.exec_write_silent h0 h1)
      rfl
    | ok b =>
      cases ht.symm.trans (h.exec_ok h0 h1)
      cases hu.symm.trans (h'.exec_ok h0 h1)
      rfl

end
/-! ## The five commands that are one read-modify-write -/

section
variable {s : State} {i : Instr} {f : Field} {c : Code}

/-- Nothing left behind the write: CACHED_RANGE is kept. -/
theorem runsRmw_of_exec (h : exec i s = .next (runFrom (rmw f c) 1 (s.accept (encode i))).state) :
    s.RunsRmw i f c [] s.cachedRange := by
  refine ⟨h, fun n u hu => ?_⟩
  rw [← hu]
  rfl

theorem runsRmw_setrate (hb : s.busy = false) (r : Code) : s.RunsRmw (.setrate r) .rate r [] s.cachedRange :=
  runsRmw_of_exec (exec_state hb rfl (by simp))

theorem runsRmw_setmode (hb : s.busy = false) {m : Code} (hm : m.toNat ≤ 1) :
    s.RunsRmw (.setmode m) .mode m [] s.cachedRange :=
  runsRmw_of_exec (exec_state hb (decide_eq_true hm) (by simp))

theorem runsRmw_setmux (hb : s.busy = false) (x : Code) : s.RunsRmw (.setmux x) .mux x [] s.cachedRange :=
  runsRmw_of_exec (exec_state hb rfl (by simp))

/-- SETRANGE alone has something left behind its write: CACHED_RANGE <- g (R134). -/
theorem runsRmw_setrange (hb : s.busy = false) {g : Code} (hg : g.toNat ≤ 5) :
    s.RunsRmw (.setrange g) .range g [.cacheRange g] (some g) :=
  ⟨exec_state hb (decide_eq_true hg) (by simp), fun _ _ _ => rfl⟩

/-- A channel's mux code is the channel behind the four pairs (R108). -/
theorem seEncode_eq_add {k : Code} (hk : k.toNat ≤ 3) : seEncode k = 4#3 + k := by
  revert k
  decide

theorem runsRmw_setch (hb : s.busy = false) {k : Code} (hk : k.toNat ≤ 3) :
    s.RunsRmw (.setch k) .mux (4#3 + k) [] s.cachedRange :=
  seEncode_eq_add hk ▸ runsRmw_of_exec (exec_state hb (decide_eq_true hk) (by simp))

/-- A setter's operand is inside its enumeration where its field says so (R78, R110). -/
theorem inDomain_setCommand (f : Field) (c : Code) : (setCommand f c).inDomain = valid f c := by
  cases f <;> rfl

/-- A code of a field's enumeration fits in the field. -/
theorem toNat_lt_of_valid (h : valid f c = true) : c.toNat < 2 ^ fieldWidth f := by
  cases f with
  | rate | mux => exact c.isLt
  | mode => exact Nat.lt_succ_of_le (of_decide_eq_true h)
  | range => exact lt_of_le_of_lt (of_decide_eq_true h) (by decide)

/-- A setter whose operand is accepted is the read-modify-write of its field. -/
theorem runsRmw_setCommand (hb : s.busy = false) (hc : valid f c = true) :
    ∃ rest range, s.RunsRmw (setCommand f c) f c rest range := by
  cases f with
  | rate => exact ⟨_, _, runsRmw_setrate hb c⟩
  | mode => exact ⟨_, _, runsRmw_setmode hb (of_decide_eq_true hc)⟩
  | mux => exact ⟨_, _, runsRmw_setmux hb c⟩
  | range => exact ⟨_, _, runsRmw_setrange hb (of_decide_eq_true hc)⟩

end

/-! ## A getter behind a setter -/

section
variable {s t u v w : State} {f g : Field} {c : Code} {between : List Field}

/-- A setter that completes OK has set its field, and with a code of its enumeration. -/
theorem exec_setCommand_completed (hb : s.busy = false) (ht : exec (setCommand f c) s = .next t)
    (hbt : t.busy = false) (hst : t.status = 0#3) : valid f c = true ∧ s.SetsField t f c := by
  have hc : valid f c = true := inDomain_setCommand f c ▸ inDomain_of_ok hb ht hst
  obtain ⟨rest, range, h⟩ := runsRmw_setCommand hb hc
  exact ⟨hc, (h.completed ht hbt hst).1⟩

/-- Behind any number of getters, a getter that completes without BUS_ERR ends on the code that stood in CFG before
them. -/
theorem getter_behind_getters (hbt : t.busy = false) (hbetween : RunsGetters between t u)
    (hv : exec (getCommand g) u = .next v) (hbv : v.busy = false) (hst : v.status ≠ 1#3) :
    ∃ x : State, v = x.getterEnd g (extractField g t.cfg) := by
  obtain ⟨hbu, hcfg, -⟩ := runsGetters_unchanged hbt hbetween
  exact hcfg ▸ exec_getCommand_completed hbu hv hbv hst

/-- The getter of the field that was set returns the code (R140). -/
theorem getter_returns_code_set (hset : s.SetsField t f c) (hc : valid f c = true) (hbt : t.busy = false)
    (hbetween : RunsGetters between t u) (hv : exec (getCommand f) u = .next v) (hbv : v.busy = false)
    (hst : v.status ≠ 1#3) : v.status = 0#3 ∧ v.resValid = true ∧ v.res = c.setWidth 17 := by
  obtain ⟨x, rfl⟩ := getter_behind_getters hbt hbetween hv hbv hst
  rw [hset.field (toNat_lt_of_valid hc)]
  obtain ⟨hstatus, -, hres, hvalid, -⟩ := completed_getterEnd (s := x) hc rfl
  exact ⟨hstatus, hvalid, hres⟩

/-- The getter of another field returns what it would have returned before the setter (R140). -/
theorem getter_of_other_field (hset : s.SetsField t f c) (hg : g ≠ f) (hbt : t.busy = false)
    (hbetween : RunsGetters between t u) (hv : exec (getCommand g) u = .next v) (hbv : v.busy = false)
    (hst : v.status ≠ 1#3) (hb : s.busy = false) {a : Word} (h0 : s.answerAt 0 = .ok a)
    (hw : exec (getCommand g) s = .next w) : v.status = w.status ∧ v.res = w.res ∧ v.resValid = w.resValid := by
  obtain ⟨x, rfl⟩ := getter_behind_getters hbt hbetween hv hbv hst
  rw [exec_getCommand_ok hb h0] at hw
  cases hw
  rw [hset.other hg.symm]
  exact getterEnd_response ..

end

end Sys2Proof.Machine

open Sys2Proof Sys2Proof.Machine Sys2Proof.Claims

/-- Settles O15: SETRATE is a read-modify-write of the field rate. -/
theorem setrateWritesTheRateField : Obligations.SetrateWritesTheRateField := by
  refine fun r => ⟨by revert r; decide, fun s hb => ?_⟩
  have h := runsRmw_setrate hb r
  refine ⟨by simpa only [insertField_rate] using h.outcomes (range := State.cachedRange), fun a b h0 h1 => ?_⟩
  obtain ⟨t, ht, hset, -⟩ := h.sets h0 h1
  exact ⟨t, ht, (extractField_rate _).symm.trans (hset.field r.isLt), hset.slice (by decide)⟩

/-- Settles O16: SETMODE is refused, or a read-modify-write of the field mode, one bit wide. -/
theorem setmodeWritesTheModeField : Obligations.SetmodeWritesTheModeField := by
  refine fun m => ⟨by revert m; decide, fun s hb => ⟨fun hm => ?_, fun hm => ?_⟩⟩
  · exact refusesOperand hb (decide_eq_false (Nat.not_le.mpr hm))
  · have h := runsRmw_setmode hb hm
    refine ⟨by simpa only [insertField_mode] using h.outcomes (range := State.cachedRange), fun a b h0 h1 => ?_⟩
    obtain ⟨t, ht, hset, -⟩ := h.sets h0 h1
    refine ⟨t, ht, ?_, hset.slice (by decide), hset.slice (by decide)⟩
    rw [extractLsb_mode, hset.field (Nat.lt_succ_of_le hm)]
    rfl

/-- Settles O17: SETMUX is a read-modify-write of the field mux. -/
theorem setmuxWritesTheMuxField : Obligations.SetmuxWritesTheMuxField := by
  refine fun x => ⟨by revert x; decide, fun s hb => ?_⟩
  have h := runsRmw_setmux hb x
  refine ⟨by simpa only [insertField_mux] using h.outcomes (range := State.cachedRange), fun a b h0 h1 => ?_⟩
  obtain ⟨t, ht, hset, -⟩ := h.sets h0 h1
  exact ⟨t, ht, (extractField_mux _).symm.trans (hset.field x.isLt), hset.slice (by decide)⟩

/-- Settles O18: SETRANGE is refused, or a read-modify-write of the field range with CACHED_RANGE behind it. -/
theorem setrangeWritesFieldThenShadow : Obligations.SetrangeWritesFieldThenShadow := by
  refine fun g => ⟨by revert g; decide, fun s hb => ⟨fun hg => ?_, fun hg => ?_⟩⟩
  · exact refusesOperand hb (decide_eq_false (Nat.not_le.mpr hg))
  · have h := runsRmw_setrange hb hg
    refine ⟨by simpa only [insertField_range] using h.outcomes (range := fun _ => some g), fun a b h0 h1 => ?_⟩
    obtain ⟨t, ht, hset, hrange⟩ := h.sets h0 h1
    exact ⟨t, ht, (extractField_range _).symm.trans (hset.field g.isLt), hset.slice (by decide),
      hset.slice (by decide), hrange⟩

/-- Settles O19: SETCH k is refused, or the read-modify-write that SETMUX (4 + k) is. -/
theorem setchWritesFourPlusChannel : Obligations.SetchWritesFourPlusChannel := by
  refine fun k => ⟨by revert k; decide, fun s hb => ⟨fun hk => ?_, fun hk => ?_⟩⟩
  · exact refusesOperand hb (decide_eq_false (Nat.not_le.mpr hk))
  · have h := runsRmw_setch hb hk
    refine ⟨by simpa only [insertField_mux] using h.outcomes (range := State.cachedRange), fun a b h0 h1 => ?_,
      fun t u => h.eq_but_cmdr (runsRmw_setmux hb (4#3 + k))⟩
    obtain ⟨t, ht, hset, -⟩ := h.sets h0 h1
    exact ⟨t, ht, (extractField_mux _).symm.trans (hset.field (4#3 + k).isLt), hset.slice (by decide)⟩

/-- Settles O20: each getter ends on the code of its field, which is a member of the field's enumeration. -/
theorem gettersReturnTheirField : Obligations.GettersReturnTheirField := by
  refine ⟨by decide, by decide, by decide, fun s hb => ⟨?rate, ?mode, ?mux⟩⟩
  case rate => simpa only [extractField_rate, getCommand] using getterOutcomes_ok (f := .rate) hb (by decide)
  case mode =>
    simpa only [extractField_mode, getCommand, BitVec.setWidth_setWidth (show ¬ (3 < 8 - 8 + 1 ∧ 3 < 17) by decide)]
      using getterOutcomes_ok (f := .mode) hb (by decide)
  case mux => simpa only [extractField_mux, getCommand] using getterOutcomes_ok (f := .mux) hb (by decide)

/-- Settles O21: GETRANGE ends on the code of the field range, where 6 and 7 are no members of the enumeration. -/
theorem getrangeRefusesReservedCodes : Obligations.GetrangeRefusesReservedCodes := by
  refine ⟨by decide, fun s hb => getterOutcomes (f := .range) hb ?_⟩
  rw [← extractField_range]
  split
  case isTrue hg => exact completed_getterEnd (decide_eq_true hg) rfl
  case isFalse hg => exact completed_getterEnd_reserved (by simpa [valid] using hg) rfl

/-- Settles O22: the setter has set its field and no other, the getters between change nothing, and a getter ends on
the code that stands in CFG. -/
theorem setThenGetRoundTrip : Obligations.SetThenGetRoundTrip := by
  refine ⟨?fields, ?channel, ?shadow⟩
  case fields =>
    intro f g c between s t u v hb ht hbt hst hbetween hv hbv hstv
    obtain ⟨hc, hset⟩ := exec_setCommand_completed hb ht hbt hst
    refine ⟨?_, fun hg a w h0 hw => getter_of_other_field hset hg hbt hbetween hv hbv hstv hb h0 hw⟩
    rintro rfl
    exact getter_returns_code_set hset hc hbt hbetween hv hbv hstv
  case channel =>
    intro k between s t u v hb ht hbt hst hbetween hv hbv hstv
    have hk : k.toNat ≤ 3 := of_decide_eq_true (inDomain_of_ok hb ht hst)
    obtain ⟨hset, -⟩ := (runsRmw_setch hb hk).completed ht hbt hst
    obtain ⟨-, -, hres⟩ := getter_returns_code_set hset rfl hbt hbetween hv hbv hstv
    rw [hres, BitVec.setWidth_setWidth_of_le _ (by decide), BitVec.setWidth_eq, ← seEncode_eq_add hk,
      seDecode_seEncode]
  case shadow =>
    intro g between s t u hb ht hbt hst hbetween
    have hg : g.toNat ≤ 5 := of_decide_eq_true (inDomain_of_ok hb ht hst)
    obtain ⟨hset, hrange⟩ := (runsRmw_setrange hb hg).completed ht hbt hst
    obtain ⟨-, hcfg, hrange'⟩ := runsGetters_unchanged hbt hbetween
    rw [hrange', hcfg, ← extractField_range]
    exact ⟨hrange, hset.field g.isLt⟩

end

section
/-! PROOFS. The voltage reads: every outcome of their read of DATA and of the transactions before it, READVCH as SETCH
and then READV, and what a voltage depends on (R150 to R152). -/

namespace Sys2Proof.Machine

open Sys2Proof.Claims

/-! ## The scaling step -/

section
variable {s u x y t v : State} {g : Code} {n : ResWord} {d d' : Word}

/-- With a value for the sample the scaling step completes OK with it (R150). -/
theorem State.sampleEnd_eq (hc : u.cachedRange = some g) (hn : mvq3 u.data g = some n) :
    u.sampleEnd = .next (u.respond 0#3 0#2 n true) := by
  simp [State.sampleEnd, hc, hn]

/-- The result of the scaling step depends on CACHED_RANGE and on d[15:4] only (R152). -/
theorem State.sampleEnd_congr (ht : x.sampleEnd = .next t) : ∃ n, t = x.respond 0#3 0#2 n true ∧
    ∀ y : State, x.data.extractLsb 15 4 = y.data.extractLsb 15 4 → x.cachedRange = y.cachedRange →
      y.sampleEnd = .next (y.respond 0#3 0#2 n true) := by
  rcases x.sampleEnd_cases with ⟨_, h⟩ | ⟨_, _, _, h⟩ | ⟨g, n, hg, hn, h⟩ <;> cases ht.symm.trans h
  exact ⟨n, rfl, fun y hd hc => State.sampleEnd_eq (hc ▸ hg) (mvq3_congr hd g ▸ hn)⟩

/-- Two scaling steps with the same CACHED_RANGE and samples that agree in d[15:4] return the same response (R152). -/
theorem State.ReachesScaling.same_response (hx : s.ReachesScaling d x) (hy : u.ReachesScaling d' y)
    (hc : s.cachedRange = u.cachedRange) (hd : d.extractLsb 15 4 = d'.extractLsb 15 4) (ht : x.sampleEnd = .next t)
    (hv : y.sampleEnd = .next v) : t.res = v.res ∧ t.status = v.status := by
  obtain ⟨rfl, hxc⟩ := hx
  obtain ⟨rfl, hyc⟩ := hy
  obtain ⟨n, rfl, hsame⟩ := State.sampleEnd_congr ht
  cases hv.symm.trans (hsame y hd (hxc.trans (hc.trans hyc.symm)))
  exact ⟨rfl, rfl⟩

end

/-! ## The texts the voltage reads run -/

section
variable {s : State} {k : Code}

/-- READV runs its one read of DATA (R150). -/
theorem exec_readv_runs (hb : s.busy = false) (hi : s.inited = true) :
    exec .readv s = (runFrom [.sample] 1 (s.accept (encode .readv))).out :=
  exec_runs hb ⟨rfl, fun _ => hi⟩

/-- READVCH runs the read-modify-write of the field mux, then a read of DATA (R151). -/
theorem exec_readvch_runs (hb : s.busy = false) (hi : s.inited = true) (hk : k.toNat ≤ 3) :
    exec (.readvch k) s =
      (runFrom [.readT, .write .mux (4#3 + k), .sample] 1 (s.accept (encode (.readvch k)))).out :=
  seEncode_eq_add hk ▸ exec_runs hb ⟨decide_eq_true hk, fun _ => hi⟩

/-- A voltage read while INITED = 0 is refused, and nothing but CMDR and the response registers changes (R204). -/
theorem refusesUninitialised {i : Instr} (hb : s.busy = false) (hd : i.inDomain = true)
    (hv : i = .readv ∨ ∃ k, i = .readvch k) (hi : s.inited = false) : RefusesUninitialised i s :=
  ⟨_, exec_not_inited hb hd hv hi, completed_respond rfl .., ⟨rfl, rfl, rfl, rfl, rfl⟩, rfl, rfl, rfl, rfl, rfl⟩

end

/-! ## Every outcome of the read of DATA -/

/-- Command i, from s, has issued these requests, all successful, and comes in the state u to its read of DATA, as
transaction n. -/
structure State.ComesToSample (s : State) (i : Instr) (n : Nat) (requests : List BusRequest) (u : State) : Prop where
  runs : exec i s = (runFrom [.sample] n u).out
  issued : s.Issued u requests
  waits : s.Waits (u.request n (.read .data)).drawn n
  kept : s.Kept u
  cmdr : u.cmdr = encode i

section
variable {s u : State} {i : Instr} {n : Nat} {requests : List BusRequest} {e : BusErr} {v d : Word}

/-- READV begins with its read of DATA. -/
theorem comesToSample_readv (hb : s.busy = false) (hi : s.inited = true) :
    s.ComesToSample .readv 1 [] (s.accept (encode .readv)) where
  runs := exec_readv_runs hb hi
  issued := ⟨rfl, rfl, rfl, rfl, rfl⟩
  waits := ⟨rfl, rfl, rfl, rfl, rfl, rfl, rfl⟩
  kept := ⟨rfl, rfl, rfl⟩
  cmdr := rfl

/-- The answer to the read of DATA is the one behind those taken. -/
theorem State.ComesToSample.answerAt (h : s.ComesToSample i n requests u) :
    u.answerAt 0 = s.answerAt requests.length := h.issued.answerAt 0

theorem State.ComesToSample.exec_err (h : s.ComesToSample i n requests u)
    (ha : s.answerAt requests.length = .err e v) :
    exec i s = .next ((u.request n (.read .data)).drawn.failBus e) := by
  rw [h.runs, runFrom_err rfl (h.answerAt.trans ha), Run.out_ended, Action.failed]

theorem State.ComesToSample.exec_silent (h : s.ComesToSample i n requests u)
    (ha : s.answerAt requests.length = .silent) : exec i s = .next (u.request n (.read .data)).drawn := by
  rw [h.runs, runFrom_silent rfl (h.answerAt.trans ha), Run.out_ended]

theorem State.ComesToSample.exec_ok (h : s.ComesToSample i n requests u) (ha : s.answerAt requests.length = .ok d) :
    exec i s = ((u.request n (.read .data)).drawn.sampled d).sampleEnd := by
  rw [h.runs, runFrom_sample_ok (h.answerAt.trans ha), Run.out_sampled]

/-- The read of DATA fails: BUS_ERR, and nothing is undone. -/
theorem State.ComesToSample.fails (h : s.ComesToSample i n requests u) (ha : s.answerAt requests.length = .err e v) :
    ∃ t, exec i s = .next t ∧ s.Completed t 1#3 (busErrCode e) 0#17 false ∧ s.Issued t (.read .data :: requests) ∧
      t.t = u.t ∧ t.cfg = u.cfg ∧ s.Kept t := by
  obtain ⟨-, -, -, -, -, -, hresponses⟩ := h.waits
  exact ⟨_, h.exec_err ha, completed_respond hresponses .., (h.issued.request n _).of_ports rfl, rfl, rfl, h.kept⟩

/-- The read of DATA is not answered: the command waits there. -/
theorem State.ComesToSample.silent (h : s.ComesToSample i n requests u) (ha : s.answerAt requests.length = .silent) :
    ∃ t, exec i s = .next t ∧ s.Waits t n ∧ s.Issued t (.read .data :: requests) ∧ t.t = u.t ∧ t.cfg = u.cfg ∧
      s.Kept t ∧ t.cmdr = encode i :=
  ⟨_, h.exec_silent ha, h.waits, h.issued.request n _, rfl, rfl, h.kept, h.cmdr⟩

/-- The read of DATA succeeds, and CACHED_RANGE holds a scale: RES is the count times the scale (R150). -/
theorem State.ComesToSample.scales {g : Code} (h : s.ComesToSample i n requests u) (hg : s.cachedRange = some g)
    (hg5 : g.toNat ≤ 5) (ha : s.answerAt requests.length = .ok d) :
    ∃ t r, exec i s = .next t ∧ s.Completed t 0#3 0#2 r true ∧
      r.toInt = (d.extractLsb 15 4).toInt * eighthsPerCount g ∧ s.Issued t (.read .data :: requests) ∧ t.t = u.t ∧
      t.cfg = u.cfg ∧ t.cachedRange = s.cachedRange ∧ t.inited = s.inited ∧ t.cmdr = encode i := by
  obtain ⟨-, -, -, -, -, -, hresponses⟩ := h.waits
  obtain ⟨-, hrange, hinited⟩ := h.kept
  obtain ⟨r, hr, hval⟩ := exists_mvq3_of_count (count_eq_extractLsb d) hg5
  rw [h.exec_ok ha, State.sampleEnd_eq (u := (u.request n _).drawn.sampled d) (hrange.trans hg) hr]
  exact ⟨_, r, rfl, completed_respond hresponses .., hval, (h.issued.request n _).of_ports rfl, rfl, rfl, hrange,
    hinited, h.cmdr⟩

end

/-! ## READVCH before its read of DATA -/

/-- Both transactions of command i's read-modify-write have succeeded, with the draws a and b. -/
def State.rmwWritten (s : State) (i : Instr) (f : Field) (c : Code) (a b : Word) : State :=
  (s.writeAsked i f c a).configWritten (insertField f (s.configRead a) c) b

section
variable {s t u : State} {k : Code} {a b : Word}

/-- The read of READVCH's read-modify-write succeeds: the command goes on to its write of the mux. -/
theorem exec_readvch_read_ok (hb : s.busy = false) (hi : s.inited = true) (hk : k.toNat ≤ 3)
    (h0 : s.answerAt 0 = .ok a) :
    exec (.readvch k) s = (runFrom [.write .mux (4#3 + k), .sample] 2 (s.configHeld (.readvch k) a)).out := by
  rw [exec_readvch_runs hb hi hk, runFrom_readT_ok (s := s.accept _) h0]
  rfl

/-- Where SETCH k fails or waits, READVCH k leaves the same state but for CMDR (R152). -/
theorem exec_readvch_of_setch (hb : s.busy = false) (hi : s.inited = true) (hk : k.toNat ≤ 3)
    (hfail : ∀ a b, s.answerAt 0 = .ok a → s.answerAt 1 ≠ .ok b) (hu : exec (.setch k) s = .next u) :
    exec (.readvch k) s = .next { u with cmdr := encode (.readvch k) } := by
  have h := runsRmw_setch hb hk
  cases h0 : s.answerAt 0 with
  | err e v =>
    cases hu.symm.trans (h.opensWithRead.exec_err h0)
    rw [exec_readvch_runs hb hi hk, runFrom_err rfl (s := s.accept _) h0]
    rfl
  | silent =>
    cases hu.symm.trans (h.opensWithRead.exec_silent h0)
    rw [exec_readvch_runs hb hi hk, runFrom_silent rfl (s := s.accept _) h0]
    rfl
  | ok a =>
    have hwrite := answerAt_configHeld s (.readvch k) a
    rw [exec_readvch_read_ok hb hi hk h0]
    cases h1 : s.answerAt 1 with
    | err e v =>
      cases hu.symm.trans (h.exec_write_err h0 h1)
      rw [runFrom_err rfl (hwrite.trans h1)]
      rfl
    | silent =>
      cases hu.symm.trans (h.exec_write_silent h0 h1)
      rw [runFrom_silent rfl (hwrite.trans h1)]
      rfl
    | ok b => exact absurd h1 (hfail a b h0)

/-- A read-modify-write that completes OK has had both its transactions answered with success. -/
theorem State.RunsRmw.succeeds {i : Instr} {f : Field} {c : Code} {rest : List Action} {range : Option Code}
    (h : s.RunsRmw i f c rest range) (ht : exec i s = .next t) (hbt : t.busy = false) (hst : t.status = 0#3) :
    ∃ a b, s.answerAt 0 = .ok a ∧ s.answerAt 1 = .ok b := by
  obtain ⟨a, h0⟩ := h.opensWithRead.answered ht hbt (by simp [hst])
  cases h1 : s.answerAt 1 with
  | ok b => exact ⟨a, b, h0, rfl⟩
  | err e v =>
    cases ht.symm.trans (h.exec_write_err h0 h1)
    cases hst
  | silent =>
    cases ht.symm.trans (h.exec_write_silent h0 h1)
    cases hbt

/-- READVCH whose first two transactions succeed comes to its read of DATA with the mux written (R151). -/
theorem comesToSample_readvch (hb : s.busy = false) (hi : s.inited = true) (hk : k.toNat ≤ 3)
    (h0 : s.answerAt 0 = .ok a) (h1 : s.answerAt 1 = .ok b) :
    s.ComesToSample (.readvch k) 3 [.writeConfig (insertField .mux (s.configRead a) (4#3 + k)), .read .config]
      (s.rmwWritten (.readvch k) .mux (4#3 + k) a b) where
  runs := by
    rw [exec_readvch_read_ok hb hi hk h0, runFrom_write_ok ((answerAt_configHeld s (.readvch k) a).trans h1)]
    rfl
  issued := (issued_writeAsked s (.readvch k) ..).of_ports rfl
  waits := ⟨rfl, rfl, rfl, rfl, rfl, rfl, rfl⟩
  kept := ⟨rfl, rfl, rfl⟩
  cmdr := rfl

/-- The write of the mux, once done, shows in the state READVCH ends in: the field mux, and no other. -/
theorem slices_of_rmwWritten (i : Instr) {c : Code} (ht : t.cfg = (s.rmwWritten i .mux c a b).cfg) :
    t.cfg.extractLsb 14 12 = c ∧ t.cfg.extractLsb 11 5 = s.cfg.extractLsb 11 5 := by
  have hset : s.SetsField t .mux c := by
    rw [State.SetsField, ht]
    exact setsField_rmwDone s i .mux c s.cachedRange a b
  exact ⟨(extractField_mux _).symm.trans (hset.field c.isLt), hset.slice (by decide)⟩

/-- READVCH whose first two transactions succeed leaves what READV leaves in the state SETCH has completed in, but for
CMDR and the record of responses (R152). -/
theorem exec_readvch_as_readv (hb : s.busy = false) (hi : s.inited = true) (hk : k.toNat ≤ 3)
    (h0 : s.answerAt 0 = .ok a) (h1 : s.answerAt 1 = .ok b) (ht : exec (.readvch k) s = .next t) :
    ∃ v, exec .readv (s.rmwDone (.setch k) .mux (4#3 + k) s.cachedRange a b) = .next v ∧ t.busy = v.busy ∧
      (v.busy = false → t = { v with cmdr := t.cmdr, ports := { v.ports with responses := t.ports.responses } }) := by
  have hx := comesToSample_readvch hb hi hk h0 h1
  have hy := comesToSample_readv (s := s.rmwDone (.setch k) .mux (4#3 + k) s.cachedRange a b) rfl hi
  have ha : (s.rmwDone (.setch k) .mux (4#3 + k) s.cachedRange a b).answerAt 0 = s.answerAt 2 :=
    State.Issued.answerAt ((issued_writeAsked s (.setch k) .mux (4#3 + k) a).of_ports rfl) 0
  cases h2 : s.answerAt 2 with
  | err e v =>
    cases ht.symm.trans (hx.exec_err h2)
    exact ⟨_, hy.exec_err (ha.trans h2), rfl, fun _ => rfl⟩
  | silent =>
    cases ht.symm.trans (hx.exec_silent h2)
    exact ⟨_, hy.exec_silent (ha.trans h2), rfl, nofun⟩
  | ok d =>
    obtain ⟨n, rfl, hsame⟩ := State.sampleEnd_congr ((hx.exec_ok h2).symm.trans ht)
    exact ⟨_, (hy.exec_ok (ha.trans h2)).trans (hsame _ rfl rfl), rfl, fun _ => rfl⟩

end

end Sys2Proof.Machine

open Sys2Proof Sys2Proof.Machine Sys2Proof.Claims

/-- Settles O23: READV is refused, or meets one of the three outcomes of its read of DATA. -/
theorem readvScalesByTheCachedRange : Obligations.ReadvScalesByTheCachedRange := by
  refine ⟨by decide, fun s hb => ⟨refusesUninitialised hb rfl (.inl rfl), fun hi => ?_⟩⟩
  have h := comesToSample_readv hb hi
  refine ⟨fun e v h0 => ?fails, fun h0 => ?silent, fun g d hg hg5 h0 => ?scales⟩
  case fails =>
    obtain ⟨t, ht, hcompleted, hissued, hT, hcfg, hkept⟩ := h.fails h0
    exact ⟨t, ht, hcompleted, hissued, hcfg, hT, hkept⟩
  case silent =>
    obtain ⟨t, ht, hwaits, hissued, hT, hcfg, hkept, hcmdr⟩ := h.silent h0
    exact ⟨t, ht, hwaits, hissued, ⟨hcfg, hT, hkept⟩, hcmdr⟩
  case scales =>
    obtain ⟨t, n, ht, hcompleted, hn, hissued, hT, hcfg, hframe⟩ := h.scales hg hg5 h0
    exact ⟨t, n, ht, hcompleted, hn, hissued, hcfg, hT, hframe⟩

/-- Settles O24: READVCH is refused; or fails or waits as SETCH does; or meets one of the three outcomes of its read of
DATA with the mux written. -/
theorem readvchSelectsThenScales : Obligations.ReadvchSelectsThenScales := by
  refine fun k => ⟨by revert k; decide, fun s hb => ⟨fun hk => ?operand, fun hk hi => ?uninitialised, fun hk hi => ?_⟩⟩
  case operand => exact refusesOperand hb (decide_eq_false (Nat.not_le.mpr hk))
  case uninitialised => exact refusesUninitialised hb (decide_eq_true hk) (.inr ⟨k, rfl⟩) hi
  have hsetch := (runsRmw_setch hb hk).outcomes (range := State.cachedRange)
  simp only [insertField_mux] at hsetch
  obtain ⟨readFails, readWaits, writeFails, writeWaits, -⟩ := hsetch
  refine ⟨fun e v h0 => ?_, fun h0 => ?_, fun a h0 => ⟨fun e v h1 => ?_, fun h1 => ?_, fun b h1 => ?_⟩⟩
  · obtain ⟨u, hu, hcompleted, hissued, hunchanged, -⟩ := readFails e v h0
    exact ⟨_, exec_readvch_of_setch hb hi hk (by simp [h0]) hu, hcompleted, hissued, hunchanged⟩
  · obtain ⟨u, hu, hwaits, hissued, hunchanged, -⟩ := readWaits h0
    exact ⟨_, exec_readvch_of_setch hb hi hk (by simp [h0]) hu, hwaits, hissued, hunchanged⟩
  · obtain ⟨u, hu, hcompleted, hissued, hT, hcfg, hkept, -⟩ := writeFails a e v h0 h1
    exact ⟨_, exec_readvch_of_setch hb hi hk (by simp [h1]) hu, hcompleted, hT ▸ hissued, hT, hcfg, hkept⟩
  · obtain ⟨u, hu, hwaits, hissued, hT, hcfg, hkept, -⟩ := writeWaits a h0 h1
    exact ⟨_, exec_readvch_of_setch hb hi hk (by simp [h1]) hu, hwaits, hT ▸ hissued, hT, hcfg, hkept⟩
  · have h := comesToSample_readvch hb hi hk h0 h1
    rw [insertField_mux, configRead_eq] at h
    refine ⟨fun e v h2 => ?fails, fun h2 => ?silent, fun g d hg hg5 h2 => ?scales⟩
    case fails =>
      obtain ⟨t, ht, hcompleted, hissued, hT, hcfg, hkept⟩ := h.fails h2
      obtain ⟨hmux, hother⟩ := slices_of_rmwWritten _ hcfg
      exact ⟨t, ht, hcompleted, hissued, hT, hmux, hother, hkept⟩
    case silent =>
      obtain ⟨t, ht, hwaits, hissued, hT, hcfg, hkept, -⟩ := h.silent h2
      obtain ⟨hmux, hother⟩ := slices_of_rmwWritten _ hcfg
      exact ⟨t, ht, hwaits, hissued, hT, hmux, hother, hkept⟩
    case scales =>
      obtain ⟨t, n, ht, hcompleted, hn, hissued, hT, hcfg, hframe⟩ := h.scales hg hg5 h2
      obtain ⟨hmux, hother⟩ := slices_of_rmwWritten _ hcfg
      exact ⟨t, n, ht, hcompleted, hn, hissued, hT, hmux, hother, hframe⟩

/-- Settles O27: a channel above 3 is refused by both; else SETCH completes OK exactly where both its transactions
succeed, and READVCH then goes on as READV, or fails as SETCH does. -/
theorem readvchIsSetchThenReadv : Obligations.ReadvchIsSetchThenReadv := by
  intro s t u k hb hi ht hu hbu
  by_cases hk : k.toNat ≤ 3
  case neg =>
    cases ht.symm.trans (exec_operand hb (decide_eq_false hk))
    cases hu.symm.trans (exec_operand hb (decide_eq_false hk))
    exact ⟨nofun, fun _ => rfl⟩
  case pos =>
    have h := runsRmw_setch hb hk
    by_cases hok : ∃ a b, s.answerAt 0 = .ok a ∧ s.answerAt 1 = .ok b
    case pos =>
      obtain ⟨a, b, h0, h1⟩ := hok
      cases hu.symm.trans (h.exec_ok h0 h1)
      exact ⟨fun _ => exec_readvch_as_readv hb hi hk h0 h1 ht, fun hst => absurd rfl hst⟩
    case neg =>
      have hfail : ∀ a b, s.answerAt 0 = .ok a → s.answerAt 1 ≠ .ok b := fun a b h0 h1 => hok ⟨a, b, h0, h1⟩
      cases ht.symm.trans (exec_readvch_of_setch hb hi hk hfail hu)
      exact ⟨fun hst => absurd (h.succeeds hu hbu hst) hok, fun _ => rfl⟩

/-- Settles O28: all four reads come to their scaling step, and its result depends on d[15:4] only. -/
theorem voltageDependsOnTheSampleOnly : Obligations.VoltageDependsOnTheSampleOnly := by
  intro s u t v d d' hbs hbu his hiu hrange hd
  constructor
  · intro h0 h0' ht hv
    obtain ⟨x, hx, hsx⟩ := exec_readv_reaches_scaling hbs his h0
    obtain ⟨y, hy, huy⟩ := exec_readv_reaches_scaling hbu hiu h0'
    exact hsx.same_response huy hrange hd (hx ▸ ht) (hy ▸ hv)
  · intro k k' a b a' b' hk hk' h0 h1 h2 h0' h1' h2' ht hv
    obtain ⟨x, hx, hsx⟩ := exec_readvch_reaches_scaling hbs his hk h0 h1 h2
    obtain ⟨y, hy, huy⟩ := exec_readvch_reaches_scaling hbu hiu hk' h0' h1' h2'
    exact hsx.same_response huy hrange hd (hx ▸ ht) (hy ▸ hv)

end

section
/-! PROOFS. INIT to its end: all eight transactions successful, one of them failing, and INIT run twice (R160 to R162,
R209). -/

namespace Sys2Proof.Machine

open Sys2Proof.Claims

/-! ## Words with the same fields -/

section
variable {w x c : Word} {v : Nat → Word} {m : Nat}

/-- Each bit of CFG[14:5] belongs to a field (R21). -/
theorem exists_field_of_described {i : Nat} (h5 : 5 ≤ i) (h15 : i < 15) :
    ∃ f, fieldLo f ≤ i ∧ i < fieldLo f + fieldWidth f := by
  obtain h | h | h | h : i < 8 ∨ (8 ≤ i ∧ i < 9) ∨ (9 ≤ i ∧ i < 12) ∨ 12 ≤ i := by omega
  · exact ⟨.rate, h5, h⟩
  · exact ⟨.mode, h⟩
  · exact ⟨.range, h⟩
  · exact ⟨.mux, h, h15⟩

/-- The four fields tile CFG[14:5]: two words that agree in each field agree there (R21). -/
theorem sameFields_of_extractField (h : ∀ f, extractField f w = extractField f x) :
    w.extractLsb 14 5 = x.extractLsb 14 5 := by
  apply BitVec.eq_of_getLsbD_eq
  intro i hi
  obtain ⟨f, hlo, hhi⟩ := exists_field_of_described (i := 5 + i) (by omega) (by omega)
  have hbit := congrArg (fun c => c.getLsbD (5 + i - fieldLo f)) (h f)
  simp only [getLsbD_extractField, Nat.add_sub_cancel' hlo,
    decide_eq_true (show 5 + i - fieldLo f < fieldWidth f by omega), Bool.true_and] at hbit
  rw [BitVec.getLsbD_extractLsb, BitVec.getLsbD_extractLsb, hbit]

/-- Two words with the same CFG[14:5] agree under its mask. -/
theorem and_describedMask_of_sameFields (h : w.extractLsb 14 5 = x.extractLsb 14 5) :
    w &&& describedMask = x &&& describedMask := by
  apply BitVec.eq_of_getLsbD_eq
  intro i _
  rw [BitVec.getLsbD_and, BitVec.getLsbD_and, getLsbD_describedMask]
  by_cases hi : 5 ≤ i ∧ i < 15
  · rw [getLsbD_of_sameFields h hi.1 hi.2]
  · rw [decide_eq_false hi, Bool.and_false, Bool.and_false]

/-- The six other bits of a merged word are the second word's. -/
theorem mergeFields_undescribed (w x : Word) : mergeFields w x &&& 0x801F#16 = x &&& 0x801F#16 := by
  have hmask : 0x801F#16 = ~~~ describedMask := by decide
  apply BitVec.eq_of_getLsbD_eq
  intro i hi
  rw [hmask, BitVec.getLsbD_and, BitVec.getLsbD_and, BitVec.getLsbD_not, getLsbD_describedMask, getLsbD_mergeFields]
  split_ifs with h
  · simp [h]
  · rfl

/-! ## The words of INIT, once its defaults stand -/

/-- CFG with INIT's codes in its four fields, and 0 in the six other bits (R162). -/
def initDefaults : Word := 0x40E0#16

theorem extractField_initDefaults (f : Field) : extractField f initDefaults = initCode f := by cases f <;> rfl

/-- The defaults, field by field: rate 7, mode 0, mux 4, range 0 (R162). -/
theorem slices_of_initDefaults (hc : c.extractLsb 14 5 = initDefaults.extractLsb 14 5) :
    c.extractLsb 7 5 = 7#3 ∧ c.extractLsb 8 8 = 0#1 ∧ c.extractLsb 14 12 = 4#3 ∧ c.extractLsb 11 9 = 0#3 := by
  have hslice := extractLsb_of_sameFields hc
  refine ⟨hslice 7 5 ?_ ?_ ?_, hslice 8 8 ?_ ?_ ?_, hslice 14 12 ?_ ?_ ?_, hslice 11 9 ?_ ?_ ?_⟩ <;> decide

/-- All four sub-steps done, CFG holds the defaults, whatever it held (R162). -/
theorem initCfg_sameFields_initDefaults (c : Word) (v : Nat → Word) :
    (initCfg c v 4).extractLsb 14 5 = initDefaults.extractLsb 14 5 := by
  refine sameFields_of_extractField fun f => ?_
  have hindex : initIndex f < 4 := by cases f <;> decide
  rw [extractField_initCfg f le_rfl, if_pos hindex, extractField_initDefaults]

/-- From the defaults, each sub-step leaves the fields as they are (R161). -/
theorem initCfg_sameFields (hc : c.extractLsb 14 5 = initDefaults.extractLsb 14 5) (hm : m ≤ 4) :
    (initCfg c v m).extractLsb 14 5 = c.extractLsb 14 5 := by
  refine sameFields_of_extractField fun f => ?_
  rw [extractField_initCfg f hm, extractField_of_sameFields hc, extractField_initDefaults, ite_self]

/-- From the defaults, each write of INIT carries the fields that are there (R161). -/
theorem initWrite_sameFields (hc : c.extractLsb 14 5 = initDefaults.extractLsb 14 5) (hm : m < 4) :
    (initWrite m (initRead c v m)).extractLsb 14 5 = c.extractLsb 14 5 :=
  (mergeFields_sameFields _ (v (2 * m + 1))).symm.trans (initCfg_sameFields (m := m + 1) hc hm)

/-- Bit 15 and bits [4:0] of a read of INIT are its draw (R55). -/
theorem initRead_undescribed (m : Nat) : initRead c v m &&& 0x801F#16 = v (2 * m) &&& 0x801F#16 := by
  rw [initRead_eq, mergeFields_undescribed]

/-- Bit 15 and bits [4:0] of a write of INIT are those of the word read (R103). -/
theorem initWrite_undescribed (m : Nat) (r : Word) : initWrite m r &&& 0x801F#16 = r &&& 0x801F#16 := by
  rw [initWrite_eq, insertField_undescribed]

end

/-! ## The ends of INIT -/

/-- The draw in an answer; no answer has none. -/
def drawOf : BusAnswer → Word
  | .ok v | .err _ v => v
  | .silent => 0#16

/-- The end of INIT behind its eighth transaction (R160). -/
def State.initDone (u : State) : State := ((u.withCachedRange initRange).withInited true).completeOk

section
variable {s t : State} {v : Nat → Word} {n : Nat} {e : BusErr} {draw : Word}

/-- INIT whose first n transactions succeed answers what the rest of its text comes to. -/
theorem exec_init_reaches (hb : s.busy = false) (hn : n ≤ 8) (hv : ∀ k, k < n → s.answerAt k = .ok (v k)) :
    ∃ u, s.InitAt v n u ∧ exec .init s = (runFrom ((textOf .init).drop n) (n + 1) u).out := by
  obtain ⟨u, hu, hrun⟩ := init_reaches s v hn hv
  exact ⟨u, hu, hrun ▸ exec_runs hb ⟨rfl, by simp⟩⟩

/-- All eight transactions succeed: INIT completes OK. -/
theorem exec_init_ok (hb : s.busy = false) (hv : ∀ k, k < 8 → s.answerAt k = .ok (v k)) :
    ∃ u, s.InitAt v 8 u ∧ exec .init s = .next u.initDone :=
  exec_init_reaches hb le_rfl hv

/-- INIT done, CFG holds the defaults (R162). -/
theorem State.InitAt.initDone_sameFields {u : State} (h : s.InitAt v 8 u) :
    u.initDone.cfg.extractLsb 14 5 = initDefaults.extractLsb 14 5 :=
  (congrArg _ h.cfg).trans (initCfg_sameFields_initDefaults s.cfg v)

/-- The n-th transaction, counted from 0, is the first to fail: INIT ends there in BUS_ERR. -/
theorem exec_init_err (hb : s.busy = false) (hn : n < 8) (hv : ∀ k, k < n → s.answerAt k = .ok (v k))
    (he : s.answerAt n = .err e draw) :
    ∃ u, s.InitAt v n u ∧ exec .init s =
      .next (((initAction n).failed draw (u.request (n + 1) (initRequest s.cfg v n)).drawn).failBus e) := by
  obtain ⟨u, hu, hrun⟩ := exec_init_reaches hb hn.le hv
  refine ⟨u, hu, ?_⟩
  rw [hrun, drop_textOf_init n hn, runFrom_err hu.requestOf ((hu.answerAt hn.le).trans he), Run.out_ended]

/-- INIT that completes OK has had all its transactions answered with success. -/
theorem init_answered (hb : s.busy = false) (ht : exec .init s = .next t) (hbt : t.busy = false)
    (hst : t.status = 0#3) {k : Nat} (hk : k < 8) : s.answerAt k = .ok (drawOf (s.answerAt k)) := by
  induction k using Nat.strong_induction_on with
  | _ k ih =>
    have hv : ∀ j, j < k → s.answerAt j = .ok (drawOf (s.answerAt j)) := fun j hj => ih j hj (hj.trans hk)
    cases ha : s.answerAt k with
    | ok v => rfl
    | err e v =>
      obtain ⟨u, -, hu⟩ := exec_init_err hb hk hv ha
      cases ht.symm.trans hu
      cases hst
    | silent =>
      obtain ⟨u, hu, ⟨hwaits, -⟩, -⟩ := initWaitsAtTheFirstSilence s k _ hb hk hv ha
      cases ht.symm.trans hu
      cases hbt.symm.trans hwaits

/-- INIT that completes OK leaves the defaults, and has issued its eight transactions (R160, R162). -/
theorem init_completed (hb : s.busy = false) (ht : exec .init s = .next t) (hbt : t.busy = false)
    (hst : t.status = 0#3) :
    t.cfg.extractLsb 14 5 = initDefaults.extractLsb 14 5 ∧ t.cachedRange = some 0#3 ∧ t.inited = true ∧
      ∃ v, s.Issued t (initRequests s.cfg v).reverse := by
  obtain ⟨u, hu, hrun⟩ := exec_init_ok hb fun k => init_answered hb ht hbt hst
  cases ht.symm.trans hrun
  exact ⟨hu.initDone_sameFields, rfl, rfl, _, hu.issued.of_ports rfl⟩

end

end Sys2Proof.Machine

open Sys2Proof Sys2Proof.Machine Sys2Proof.Claims

/-- Settles O29: INIT comes through all eight transactions, and the four fields written tile CFG[14:5]. -/
theorem initSetsTheDefaults : Obligations.InitSetsTheDefaults := by
  refine ⟨by decide, fun s v hb hv => ?_⟩
  obtain ⟨u, hu, hrun⟩ := exec_init_ok hb hv
  have hissued : s.Issued u.initDone (initRequests s.cfg v).reverse := hu.issued.of_ports rfl
  have hT : u.initDone.t = initRead s.cfg v 3 := hu.t_read (by decide)
  have hfields := hu.initDone_sameFields
  obtain ⟨hrate, hmode, hmux, hrange⟩ := slices_of_initDefaults hfields
  refine ⟨u.initDone, hrun, completed_respond hu.responses .., hrate, hmode, hmux, hrange,
    and_describedMask_of_sameFields hfields, rfl, rfl, hu.data, hu.cmdr, hissued, hT, ?_⟩
  obtain ⟨hrequests, -⟩ := hissued
  refine ⟨_, _, hrequests, ?_, ?_⟩
  · rw [hT, initWrite_undescribed]
  · rw [initWrite_undescribed, initRead_undescribed]

/-- Settles O30: INIT comes to its n-th transaction, a read for n even and a write for n odd, and it fails. -/
theorem initStopsAtTheFirstFailure : Obligations.InitStopsAtTheFirstFailure := by
  intro s n v e draw hb hn hv he
  obtain ⟨u, hu, hrun⟩ := exec_init_err hb hn hv he
  refine ⟨_, hrun, ?_⟩
  obtain ⟨m, rfl | rfl⟩ := n.even_or_odd'
  · rw [initAction_even]
    refine ⟨completed_respond hu.responses .., hu.reached hn rfl rfl rfl rfl rfl rfl, ?_, fun _ => hu.fields hn rfl⟩
    omega
  · rw [initAction_odd]
    refine ⟨completed_respond hu.responses .., hu.reached hn rfl rfl rfl rfl rfl rfl, fun _ => rfl, ?_⟩
    omega

/-- Settles O31: each INIT leaves the defaults, and from the defaults each write carries the fields that are there. -/
theorem initTwiceIsInitOnce : Obligations.InitTwiceIsInitOnce := by
  intro s t u hb ht hbt hst hu hbu hsu
  obtain ⟨hcfg, hrange, hinited, -⟩ := init_completed hb ht hbt hst
  obtain ⟨hcfg', hrange', hinited', v, hissued⟩ := init_completed hbt hu hbu hsu
  refine ⟨hcfg'.trans hcfg.symm, hrange'.trans hrange.symm, hinited'.trans hinited.symm,
    and_describedMask_of_sameFields hcfg', hrange', hinited', _, _, _, _, hissued, ?_⟩
  have hwrite {m : Nat} (hm : m < 4) := initWrite_sameFields (v := v) hcfg hm
  simp only [List.forall_mem_cons]
  exact ⟨hwrite (by decide), hwrite (by decide), hwrite (by decide), hwrite (by decide), nofun⟩

end

section
/-! PROOFS. How an accepted command ends, and with which STATUS: the fault table of 60_exceptions.md (R200 to R208). -/

namespace Sys2Proof.Machine

open Sys2Proof.Claims

/-- The ends of an accepted command, one for each cause with what it takes and what it leaves in the response registers
(R200 to R205, R208), and the wait for an answer (R220). -/
inductive State.Ends (s : State) (i : Instr) (t : State) : Prop
  | waits (n : Nat) (h : s.Waits t n)
  | ok (res : ResWord) (valid : Bool) (h : s.Completed t 0#3 0#2 res valid)
  | busErr (e : BusErr) (h : s.Completed t 1#3 (busErrCode e) 0#17 false)
  | cfgErr (hd : i.inDomain = false) (h : s.Completed t 2#3 0#2 0#17 false)
  | notInit (hd : i.inDomain = true) (hv : readsVoltage i = true) (hi : s.inited = false)
      (h : s.Completed t 4#3 0#2 0#17 false)
  | rsvdCode (hg : i = .getrange) (h : s.Completed t 5#3 0#2 0#17 false)

/-! ## Every run comes to one of the ends -/

/-- From s, a command under way has come to u without a response: BUSY is 1, and the response registers and the record
of responses are as they were. -/
def State.Unresponded (s u : State) : Prop :=
  u.busy = true ∧ u.status = s.status ∧ u.errinfo = s.errinfo ∧ u.res = s.res ∧ u.resValid = s.resValid ∧
    u.ports.responses = s.ports.responses

section
variable {s u : State} {i : Instr}

/-- Acceptance gives no response. -/
theorem unresponded_started (s : State) (i : Instr) : s.Unresponded (s.started i) := by
  cases i <;> exact ⟨rfl, rfl, rfl, rfl, rfl, rfl⟩

/-- The response given next is the command's only one. -/
theorem State.Unresponded.completed (h : s.Unresponded u) (st : BitVec 3) (e : ErrWord) (r : ResWord) (v : Bool) :
    s.Completed (u.respond st e r v) st e r v :=
  have ⟨_, _, _, _, _, hresponses⟩ := h
  completed_respond hresponses st e r v

/-- A command that has put transaction n to the transport and has given no response waits there. -/
theorem State.Unresponded.waits {n : Nat} (h : s.Unresponded u) (hseq : u.seq = .trans n) : s.Waits u n :=
  have ⟨hbusy, hregisters⟩ := h
  ⟨hbusy, hseq, hregisters⟩

/-- A failed transaction gives no response of its own. -/
theorem State.Unresponded.failed (h : s.Unresponded u) (a : Action) (v : Word) : s.Unresponded (a.failed v u) := by
  cases a <;> exact h

/-- Only GETRANGE reads the field range for the caller (R138). -/
theorem eq_getrange_of_mem_textOf (h : Action.get .range ∈ textOf i) : i = .getrange := by
  cases i <;> simp at h ⊢

/-- A getter's end: OK, or RSVD_CODE, which the field range alone can give (R205). -/
theorem State.Unresponded.getterEnd {f : Field} (h : s.Unresponded u) (hf : Action.get f ∈ textOf i) (r : Word) :
    s.Ends i (u.getterEnd f (extractField f r)) := by
  rcases u.getterEnd_cases f (extractField f r) with ⟨_, hend⟩ | ⟨hinvalid, hend⟩ <;> rw [hend]
  · exact .ok _ _ (h.completed ..)
  · have hrange : f = .range := by
      by_contra hne
      rw [valid_extractField hne] at hinvalid
      cases hinvalid
    exact .rsvdCode (eq_getrange_of_mem_textOf (hrange ▸ hf)) (h.completed ..)

end

/-- Every run of a command's text comes to one of the ends: it responds where it ends, and nowhere before. -/
theorem ends_rule (s : State) (i : Instr) :
    RunRule (fun l _ u => l ⊆ textOf i ∧ s.Unresponded u) (fun r => ∀ t, r.out = .next t → s.Ends i t) where
  done := by
    rintro n u ⟨-, h⟩ _ ⟨⟩
    exact .ok _ _ (h.completed ..)
  waits := by
    rintro a rest n u r ⟨-, h⟩ - - _ ⟨⟩
    exact .waits n (State.Unresponded.waits (u := (u.request n r).drawn) h rfl)
  fails := by
    rintro a rest n u r e v ⟨-, h⟩ - - _ ⟨⟩
    exact .busErr e ((State.Unresponded.failed (u := (u.request n r).drawn) h a v).completed ..)
  gets := by
    rintro f rest n u v ⟨hl, h⟩ - _ ⟨⟩
    exact State.Unresponded.getterEnd (u := (u.request n (.read .config)).drawn) h (hl (.head _)) _
  samples := by
    rintro rest n u v ⟨-, h⟩ - t ht
    obtain ⟨m, rfl⟩ := State.sampleEnd_next ht
    exact .ok _ _ (State.Unresponded.completed (u := (u.request n (.read .data)).drawn.sampled v) h ..)
  readT := fun ⟨hl, h⟩ _ => ⟨List.subset_of_cons_subset hl, h⟩
  write := fun ⟨hl, h⟩ _ => ⟨List.subset_of_cons_subset hl, h⟩
  cacheRange := fun ⟨hl, h⟩ => ⟨List.subset_of_cons_subset hl, h⟩
  markInited := fun ⟨hl, h⟩ => ⟨List.subset_of_cons_subset hl, h⟩

section
variable {s t : State} {i : Instr}

/-- Every command accepted by an idle block comes to one of the ends (R200). -/
theorem exec_ends (hb : s.busy = false) (ht : exec i s = .next t) : s.Ends i t := by
  rcases exec_cases i hb with ⟨hd, he⟩ | ⟨hd, hv, hi, he⟩ | ⟨_, he⟩ <;> rw [he] at ht
  · cases ht
    exact .cfgErr hd (completed_respond rfl ..)
  · cases ht
    exact .notInit hd ((readsVoltage_iff i).mpr hv) hi (completed_respond rfl ..)
  · exact (ends_rule s i).run ⟨List.Subset.refl _, unresponded_started s i⟩ t ht

/-! ## The STATUS of a completed command -/

/-- A completion's STATUS is in the register. -/
theorem State.Completed.status_eq {st : BitVec 3} {e : ErrWord} {r : ResWord} {v : Bool}
    (h : s.Completed t st e r v) : t.status = st := h.1

/-- The STATUS of a completed command names its cause (R81, R201 to R205). -/
theorem exec_status (hb : s.busy = false) (ht : exec i s = .next t) (hbt : t.busy = false) :
    t.status = 0#3 ∨ t.status = 1#3 ∨ (t.status = 2#3 ∧ i.inDomain = false) ∨
      (t.status = 4#3 ∧ readsVoltage i = true ∧ i.inDomain = true ∧ s.inited = false) ∨
      (t.status = 5#3 ∧ i = .getrange) := by
  cases exec_ends hb ht with
  | waits n h =>
    obtain ⟨hbusy, -⟩ := h
    cases hbusy.symm.trans hbt
  | ok res valid h => exact .inl h.status_eq
  | busErr e h => exact .inr (.inl h.status_eq)
  | cfgErr hd h => exact .inr (.inr (.inl ⟨h.status_eq, hd⟩))
  | notInit hd hv hi h => exact .inr (.inr (.inr (.inl ⟨h.status_eq, hv, hd, hi⟩)))
  | rsvdCode hg h => exact .inr (.inr (.inr (.inr ⟨h.status_eq, hg⟩)))

/-- STATUS 2 is given for an operand outside its enumeration only (R202). -/
theorem inDomain_eq_false_of_cfgErr (hb : s.busy = false) (ht : exec i s = .next t) (hbt : t.busy = false)
    (hst : t.status = 2#3) : i.inDomain = false := by
  simpa [hst] using exec_status hb ht hbt

/-- STATUS 4 is given for a voltage read while INITED = 0 only, and after its operand has been checked (R204, R207). -/
theorem uninitialised_of_notInit (hb : s.busy = false) (ht : exec i s = .next t) (hbt : t.busy = false)
    (hst : t.status = 4#3) : readsVoltage i = true ∧ i.inDomain = true ∧ s.inited = false := by
  simpa [hst] using exec_status hb ht hbt

/-- The operands outside their enumeration, command by command (R75, R202). -/
theorem inDomain_eq_false_iff (i : Instr) :
    (∃ c : Code, (i = .setmode c ∧ 2 ≤ c.toNat) ∨ (i = .setrange c ∧ 6 ≤ c.toNat) ∨ (i = .setch c ∧ 4 ≤ c.toNat) ∨
      (i = .readvch c ∧ 4 ≤ c.toNat)) ↔ i.inDomain = false := by
  cases i <;> simp [Instr.inDomain, Nat.lt_iff_add_one_le]

/-- A completion with no result but with STATUS 0, and no transport error but with STATUS 1, as the response registers
show it (R34, R35). -/
theorem State.Completed.response {st : BitVec 3} {e : ErrWord} {r : ResWord} {v : Bool} (h : s.Completed t st e r v)
    (hr : st ≠ 0#3 → r = 0#17 ∧ v = false) (he : st ≠ 1#3 → e = 0#2) :
    s.Completed t t.status t.errinfo t.res t.resValid ∧
      (t.status ≠ 0#3 → t.res = 0#17 ∧ t.resValid = false) ∧ (t.status ≠ 1#3 → t.errinfo = 0#2) := by
  obtain ⟨rfl, rfl, rfl, rfl, hidle⟩ := h
  exact ⟨⟨rfl, rfl, rfl, rfl, hidle⟩, hr, he⟩

end

end Sys2Proof.Machine

open Sys2Proof Sys2Proof.Machine Sys2Proof.Claims

/-- Settles O32: a command is refused at once where its operand is outside its enumeration, and STATUS 2 names no other
cause. -/
theorem operandFaultsBeforeTheBus : Obligations.OperandFaultsBeforeTheBus := by
  intro s i hb
  exact ⟨inDomain_eq_false_iff i, refusesOperand hb, fun t ht hbt => inDomain_eq_false_of_cfgErr hb ht hbt⟩

/-- Settles O33: a voltage read is refused at once while INITED = 0, and STATUS 4 names no other cause. -/
theorem voltageReadNeedsInit : Obligations.VoltageReadNeedsInit := by
  intro s hb
  refine ⟨fun hi => ⟨refusesUninitialised hb rfl (.inl rfl) hi, fun k hk => ?_⟩, fun i t => uninitialised_of_notInit hb⟩
  exact refusesUninitialised hb (decide_eq_true hk) (.inr ⟨k, rfl⟩) hi

/-- Settles O34: each cause is one that the command's row of the table has. -/
theorem eachCommandRaisesOnlyItsFaults : Obligations.EachCommandRaisesOnlyItsFaults := by
  intro i s t hb ht hbt
  rcases exec_status hb ht hbt with h | h | ⟨h, hd⟩ | ⟨h, hv, -⟩ | ⟨h, rfl⟩
  · cases i <;> exact .inl h
  · cases i <;> simp [h]
  · cases i with
    | setmode _ | setrange _ | setch _ => exact .inr (.inr h)
    | readvch _ => exact .inr (.inr (.inl h))
    | init | setrate _ | setmux _ | getrate | getmode | getmux | getrange | readv => cases hd
  · cases i with
    | readv => exact .inr (.inr h)
    | readvch _ => exact .inr (.inr (.inr h))
    | init | setrate _ | setmode _ | setmux _ | setrange _ | getrate | getmode | getmux | getrange | setch _ => cases hv
  · exact .inr (.inr h)

/-- Settles O35: each end is the wait, or one response, with a result for OK only and a transport error for BUS_ERR
only. -/
theorem oneResponsePerCompletedCommand : Obligations.OneResponsePerCompletedCommand := by
  intro i s t hb ht
  cases exec_ends hb ht with
  | waits n h => exact .inr ⟨n, h⟩
  | ok res valid h => exact .inl (h.response (absurd rfl) fun _ => rfl)
  | busErr e h => exact .inl (h.response (fun _ => ⟨rfl, rfl⟩) (absurd rfl))
  | cfgErr _ h | notInit _ _ _ h | rsvdCode _ h => exact .inl (h.response (fun _ => ⟨rfl, rfl⟩) fun _ => rfl)

end

section
/-! PROOFS. Coherence of the shadow, the port of a busy block, and the block after reset (R240 to R247). -/

namespace Sys2Proof.Machine

/-! ## The shadow (R247) -/

/-- Behind the write of CFG.range stands the write of CACHED_RANGE with the same code (R134, R160). -/
theorem cacheRange_behind_write_range {i : Instr} {c : Code} {rest : List Action}
    (h : .write .range c :: rest <:+ textOf i) : ∃ rest', rest = .cacheRange c :: rest' := by
  have hchain : (textOf i).IsChain fun a b => a = .write .range c → b = .cacheRange c := by
    cases i <;> simp
  cases rest with
  | nil =>
    have hlast : (textOf i).getLast? ≠ some (.write .range c) := by cases i <;> simp
    obtain ⟨before, ht⟩ := h
    exact absurd (by rw [← ht, List.getLast?_concat]) hlast
  | cons b rest => exact ⟨rest, by rw [(List.isChain_cons_cons.mp (hchain.suffix h)).1 rfl]⟩

/-- CFG.range after a successful write of another field is that of the word read (R57, R103). -/
theorem extractLsb_written_of_ne_range {f : Field} (hf : f ≠ .range) (w v : Word) (c : Code) :
    (mergeFields (insertField f w c) v).extractLsb 11 9 = w.extractLsb 11 9 := by
  rw [extractLsb_mergeFields _ _ _ _ (by decide) (by decide) (by decide), ← extractField_range,
    extractField_insertField_of_ne hf, extractField_range]

/-- A command has ended with BUS_ERR at a write: the one end that may leave the shadow incoherent (R247). -/
def State.EndsInFailedWrite (t : State) : Prop :=
  t.busy = false ∧ t.status = 1#3 ∧ ∃ w earlier, t.ports.requests = .writeConfig w :: earlier

/-- With l of a command's text left the shadow is coherent, except between the write of CFG.range and that of
CACHED_RANGE. -/
def State.CoherentBefore (u : State) (l : List Action) : Prop :=
  (∀ g rest, l ≠ .cacheRange g :: rest) → u.Coherent

section
variable {u v : State} {a : Action} {rest : List Action} {n : Nat}

/-- Coherence speaks of CACHED_RANGE and CFG only. -/
theorem State.Coherent.of_eq (h : u.Coherent) (hrange : v.cachedRange = u.cachedRange) (hcfg : v.cfg = u.cfg) :
    v.Coherent := by
  unfold State.Coherent
  rw [hrange, hcfg]
  exact h

theorem State.Coherent.before (h : u.Coherent) (l : List Action) : u.CoherentBefore l := fun _ => h

/-- At a transaction the shadow is coherent. -/
theorem State.CoherentBefore.at_transaction (h : u.CoherentBefore (a :: rest)) (ha : isTransaction a = true) :
    u.Coherent := by
  refine h ?_
  rintro g rest ⟨⟩
  cases ha

/-- A successful write of another field than range keeps the shadow coherent; T has the range CFG has (R65). -/
theorem coherent_configWritten {f : Field} {c : Code} (h : u.Coherent)
    (ht : u.t.extractLsb 14 5 = u.cfg.extractLsb 14 5) (hf : f ≠ .range) (r : BusRequest) (w : Word) :
    ((u.request n r).drawn.configWritten (insertField f u.t c) w).Coherent := by
  have hrange : (mergeFields (insertField f u.t c) w).extractLsb 11 9 = u.cfg.extractLsb 11 9 :=
    (extractLsb_written_of_ne_range hf u.t w c).trans
      (extractLsb_of_sameFields ht 11 9 (by decide) (by decide) (by decide))
  exact h.trans (congrArg some hrange.symm)

/-- A failed read leaves the shadow coherent; a failed write is the exception of R247. -/
theorem coherent_of_failed {r : BusRequest} {e : BusErr} {w : Word} (h : u.Coherent) (hr : requestOf a u = some r)
    (hne : ¬ ((a.failed w (u.request n r).drawn).failBus e).EndsInFailedWrite) :
    ((a.failed w (u.request n r).drawn).failBus e).Coherent := by
  cases a with
  | write f c =>
    cases hr
    exact absurd ⟨rfl, rfl, _, _, rfl⟩ hne
  | readT | get _ | sample | cacheRange _ | markInited => exact h

end

/-- Every run of a command under way, begun coherent, ends coherent or at a failed write. -/
theorem coherent_rule (i : Instr) :
    RunRule (fun l n u => u.Runs i l n ∧ u.CoherentBefore l)
      (fun r => ∀ t, r.out = .next t → ¬ t.EndsInFailedWrite → t.Coherent) where
  done := by
    rintro n u ⟨-, hc⟩ _ ⟨⟩ -
    exact hc nofun
  waits := by
    rintro a rest n u r ⟨-, hc⟩ hr - _ ⟨⟩ -
    exact hc.at_transaction (isTransaction_of_requestOf hr)
  fails := by
    rintro a rest n u r e v ⟨-, hc⟩ hr - _ ⟨⟩ hne
    exact coherent_of_failed (hc.at_transaction (isTransaction_of_requestOf hr)) hr hne
  gets := by
    rintro f rest n u v ⟨-, hc⟩ - _ ⟨⟩ -
    obtain ⟨st, res, valid, hend⟩ :=
      getterEnd_eq_respond (u.request n (.read .config)).drawn f (extractField f (u.configRead v))
    rw [hend]
    exact hc.at_transaction rfl
  samples := by
    rintro rest n u v ⟨-, hc⟩ - t ht -
    have hu : u.Coherent := hc.at_transaction rfl
    obtain rfl | ⟨m, rfl⟩ := Run.out_next ht <;> exact hu
  readT h ha := ⟨(runs_rule i).readT h.1 ha, State.Coherent.before (h.2.at_transaction rfl) _⟩
  write := by
    rintro f c rest n u v ⟨h, hc⟩ ha
    refine ⟨(runs_rule i).write h ha, fun hrest => ?_⟩
    by_cases hf : f = .range
    · subst hf
      obtain ⟨rest', rfl⟩ := cacheRange_behind_write_range h.suffix
      exact absurd rfl (hrest c rest')
    · exact coherent_configWritten (hc.at_transaction rfl) h.ready hf _ v
  cacheRange := by
    rintro g rest n u ⟨h, -⟩
    have hu : (u.withCachedRange g).Coherent := congrArg some h.ready.symm
    exact ⟨(runs_rule i).cacheRange h, hu.before rest⟩
  markInited := by
    rintro rest n u ⟨h, hc⟩
    exact ⟨(runs_rule i).markInited h, fun _ => hc nofun⟩

/-! ## The port of a busy block (R246) -/

section
variable {s : State} {k : State → Run}

/-- Meeting an answer leaves the caller's words alone where its three outcomes do. -/
theorem commands_await {onErr : Word → State → State} {onOk : Word → State → Run}
    (herr : ∀ v u, (onErr v u).ports.commands = u.ports.commands)
    (hok : ∀ v u, (onOk v u).state.ports.commands = u.ports.commands) :
    (s.await onErr onOk).state.ports.commands = s.ports.commands := by
  rcases State.await_cases s onErr onOk with ⟨_, h⟩ | ⟨e, v, _, h⟩ | ⟨v, _, h⟩ <;> rw [h]
  · rfl
  · exact herr v s.drawn
  · exact hok v s.drawn

/-- An action leaves the caller's words alone where what comes behind it does. -/
theorem commands_perform (hk : ∀ u, (k u).state.ports.commands = u.ports.commands) (a : Action) :
    (perform a s k).state.ports.commands = s.ports.commands := by
  cases a with
  | readT | write _ _ => rw [perform]; exact commands_await (fun _ _ => rfl) fun _ _ => hk _
  | sample => rw [perform]; exact commands_await (fun _ _ => rfl) fun _ _ => rfl
  | cacheRange _ | markInited => exact hk _
  | get f =>
    rw [perform]
    refine commands_await (fun _ _ => rfl) fun v u => ?_
    obtain ⟨st, res, valid, hend⟩ := getterEnd_eq_respond u f (extractField f (u.configRead v))
    rw [Run.state_ended, hend]
    rfl

/-- The run of a command's text takes no word from the port. -/
theorem commands_runFrom (l : List Action) (n : Nat) (s : State) :
    (runFrom l n s).state.ports.commands = s.ports.commands :=
  runFrom_rel (fun u v => v.ports.commands = u.ports.commands) (fun _ => rfl) (fun _ _ _ h h' => h'.trans h)
    (fun _ _ _ => rfl) (fun _ => rfl) (fun _ _ => rfl) (fun _ _ => rfl) (fun _ _ _ _ _ => rfl) l
    (fun _ _ _ _ _ => rfl) (fun _ _ _ _ _ => rfl) (fun _ _ _ => rfl) (fun _ _ => rfl) n s

/-- What a run answers has the words of the state it has come to. -/
theorem commands_of_out {r : Run} {t : State} (h : r.out = .next t) : t.ports.commands = r.state.ports.commands := by
  obtain rfl | ⟨m, rfl⟩ := Run.out_next h <;> rfl

/-- A busy block that goes on takes no word from the port. -/
theorem commands_resume {t : State} (h : resume s = .next t) : t.ports.commands = s.ports.commands := by
  unfold resume at h
  cases hp : s.pending with
  | none => simp [hp] at h
  | some p =>
    obtain ⟨n, a, rest⟩ := p
    rw [hp] at h
    exact (commands_of_out h).trans (commands_perform (fun u => commands_runFrom rest _ u) a)

end

/-! ## The block after reset -/

/-- The state after reset meets the invariant (R241). -/
theorem inv_reset : State.reset.Inv := inv_powerOn State.reset

/-- An idle block that meets the invariant answers every command with a next state (R242). -/
theorem exec_next {s : State} (h : s.Inv) (hb : s.busy = false) (i : Instr) : ∃ t, exec i s = .next t := by
  rcases exec_refused_or_runs h hb i with ⟨t, he, _⟩ | ⟨hruns, he⟩
  · exact ⟨t, he⟩
  · obtain ⟨t, ht, _⟩ := (runs_rule i).run hruns
    exact ⟨t, he.trans ht⟩

end Sys2Proof.Machine

open Sys2Proof Sys2Proof.Machine Sys2Proof.Claims

/-- Settles O50: an end without a run changes neither side of the shadow, and a run breaks it only between the write of
CFG.range and the write of CACHED_RANGE behind it, where no transaction stands. -/
theorem shadowStaysCoherent : Obligations.ShadowStaysCoherent := by
  intro s t h hc hr hs hne
  rcases step_cases h hr with ⟨t', hs', -, hcfg, -, -, hrange, -⟩ | ⟨i, l, n, u, hruns, hopens, hs'⟩
  · cases hs.symm.trans hs'
    exact hc.of_eq hrange hcfg
  · have hu : u.Coherent := hc.of_eq hopens.cachedRange hopens.cfg
    exact (coherent_rule i).run ⟨hruns, hu.before l⟩ t (hs'.symm.trans hs) hne

/-- Settles O38: a busy block runs what is left of its command, which touches no word at the port; exec refuses. -/
theorem busyBlockAcceptsNoCommand : Obligations.BusyBlockAcceptsNoCommand :=
  ⟨fun _ _ hb hr hs => commands_resume ((step_busy hr hb).symm.trans hs), fun i _ hb => exec_busy i hb⟩

/-- Settles O41: the reset values as the model gives them; the commands by the invariant, the voltage reads refused as
INITED is 0. -/
theorem resetValuesAndReadiness : Obligations.ResetValuesAndReadiness :=
  ⟨rfl, rfl, rfl, rfl, rfl, rfl, rfl, rfl, rfl, rfl, step_idle rfl rfl rfl, exec_next inv_reset rfl,
    refusesUninitialised rfl rfl (.inl rfl) rfl,
    fun k hk => refusesUninitialised rfl (decide_eq_true hk) (.inr ⟨k, rfl⟩) rfl⟩

/-- Settles O42: a step under rst powers the block on, whatever it was doing; the record of responses stays. -/
theorem resetAbandonsTheCommand : Obligations.ResetAbandonsTheCommand := fun s hr =>
  ⟨s.powerOn, step_rst hr, rfl, rfl, rfl, rfl, rfl, rfl, rfl, rfl, rfl, rfl⟩

/-- Settles O43: the step of an idle block with nothing at its port. -/
theorem idleBlockWaits : Obligations.IdleBlockWaits := fun _ hr ⟨hc, hb⟩ => step_idle hr hb hc

/-- Settles O45: power-on gives the state after reset, from any state. -/
theorem resetMeetsTheInvariant : Obligations.ResetMeetsTheInvariant := inv_reset

end
